-- ==== Sys2Proof/Word.lean ====
section
/-! DEFINITION. The word types of the block (spec/00_scope.md R10: every quantity is an unsigned integer of a
stated width; `uN` is `BitVec N`). -/

namespace Sys2Proof

/-- `u8`: a byte of a frame buffer (10_state.md R21). -/
abbrev Byte := BitVec 8

/-- `u16`: a duration, a limit or a saturated elapsed time, in microseconds (00_scope.md R6 `DUR_W`, R12). -/
abbrev Duration := BitVec 16

/-- `u32`: a value of the microsecond counter, or a difference of two (00_scope.md R6 `TS_W`, R12). -/
abbrev Time := BitVec 32

/-- The 35-bit request word (30_encoding.md R71). -/
abbrev RequestWord := BitVec 35

/-- The 52-bit response word (30_encoding.md R73). -/
abbrev ResponseWord := BitVec 52

end Sys2Proof
end

