-- ==== Sys2Proof/Config.lean ====
section
/-! DEFINITION. The parameters of the block (spec/00_scope.md R6, R7, R9; 10_state.md R28): what an
implementation fixes once, and no operation writes. Their default values are in Machine/Instances.lean; which
values are legal is in WellFormed.lean. -/

namespace Sys2Proof

/-- The structured protocols (00_scope.md R2). There is no Sony machine (R5 (f)). -/
inductive Proto where
  | nec
  | panasonic
  deriving DecidableEq, Repr

/-- The machines that `M` may list (00_scope.md R6): the structured ones and the hash machine. -/
inductive MachineId where
  | structured (p : Proto)
  | hash
  deriving DecidableEq, Repr

/-- `checksum_p` as plain data (00_scope.md R7; log 8). -/
inductive Checksum where
  /-- Byte `check` is the bitwise complement of byte `value` (42_nec_panasonic.md R141). -/
  | complement (value check : Nat)
  /-- The XOR of the bytes `sources` equals byte `check` (42_nec_panasonic.md R151). -/
  | xorOf (sources : List Nat) (check : Nat)
  deriving DecidableEq, Repr

/-- The parameters of one Protocol State Machine (00_scope.md R7). -/
structure ProtoParams where
  /-- `N_p`, the number of data bits in a frame. -/
  bits : Nat
  /-- A duration `>=` this is a timeout. -/
  limitTimeout : Duration
  /-- A lead-slot duration `>=` this is a normal lead. -/
  limitLead : Duration
  /-- A lead-slot duration `<` this is an invalid lead. -/
  limitHolding : Duration
  /-- A data-slot duration `>=` this is a logical one. -/
  limitLogic : Duration
  /-- The repeat window, in microseconds. -/
  limitRepeat : Time
  /-- The predicate over the buffer. -/
  checksum : Checksum
  /-- The buffer image written when a holding signal is accepted. -/
  holdingPayload : List Byte
  /-- `address_p`: the buffer bytes that make the address, lowest byte first (20_memory.md R52; log 8). -/
  addressBytes : List Nat
  /-- `command_p`: the buffer bytes that make the command, lowest byte first (20_memory.md R52; log 8). -/
  commandBytes : List Nat
  /-- "requires timeout checking" (41_protocol_machine.md R124). -/
  reqTimeoutCheck : Bool
  deriving DecidableEq, Repr

/-- The parameters of the hash machine (00_scope.md R9, 43_hash_decoder.md R160). `HASH_TOL` is the fraction
`tolNum / tolDen` (log 9). -/
structure HashParams where
  basis : BitVec 32
  prime : BitVec 32
  timeout : Duration
  maxBlocks : Nat
  tolNum : Nat
  tolDen : Nat
  deriving DecidableEq, Repr

/-- The whole configuration (00_scope.md R6). -/
structure Config where
  /-- `M`, the ordered list of armed machines. -/
  machines : List MachineId
  nec : ProtoParams
  panasonic : ProtoParams
  hash : HashParams
  /-- `HASH_FALLBACK_RESET`: a structured claim resets the hash machine. -/
  hashFallbackReset : Bool
  /-- `T_RESET_LAST_EDGE`. -/
  resetLastEdge : Time
  /-- `T_RESET_LAST_EVENT`. -/
  resetLastEvent : Time
  deriving DecidableEq, Repr

/-- The parameters of the structured machine `p`. -/
def Config.params (cfg : Config) : Proto → ProtoParams
  | .nec => cfg.nec
  | .panasonic => cfg.panasonic

end Sys2Proof
end

