-- ==== Sys2Proof/Machine/Params.lean ====
section
/-! DEFINITION. What follows from a parameter set: the derived lengths of spec/00_scope.md R7, the checksum
predicates of 42_nec_panasonic.md R141 and R151, and the tag values of 30_encoding.md R81. -/

namespace Sys2Proof

/-- The "last recognized protocol" tag, `u2`; its four values are the four codes of 10_state.md R27. -/
inductive Tag where
  | none
  | nec
  | panasonic
  | hash
  deriving DecidableEq, Repr

/-- The tag codes of 30_encoding.md R81. -/
def Tag.code : Tag → BitVec 2
  | .none => 0
  | .nec => 1
  | .panasonic => 2
  | .hash => 3

/-- `id_p` of a structured machine (42_nec_panasonic.md R140, R150). -/
def Proto.tag : Proto → Tag
  | .nec => .nec
  | .panasonic => .panasonic

/-- The tag of a machine of `M` (43_hash_decoder.md R160 for the hash machine). -/
def MachineId.tag : MachineId → Tag
  | .structured p => p.tag
  | .hash => .hash

/-- `BYTES_p = ceil(N_p / 8)` (00_scope.md R7). -/
def ProtoParams.bytes (P : ProtoParams) : Nat := (P.bits + 7) / 8

/-- `irLength_p = 2 * N_p + 2` (00_scope.md R7). -/
def ProtoParams.irLength (P : ProtoParams) : Nat := 2 * P.bits + 2

/-- `TERM_p = irLength_p / 2`, the terminal index (00_scope.md R7). -/
def ProtoParams.term (P : ProtoParams) : Nat := P.irLength / 2

/-- `DONE_p = TERM_p + 1`, the cursor value of `COMPLETE` (00_scope.md R7). -/
def ProtoParams.done (P : ProtoParams) : Nat := P.term + 1

/-- Byte `j` of a buffer image. The index is never outside the buffer in a legal configuration. -/
def byteAt (data : List Byte) (j : Nat) : Byte := data.getD j 0

/-- `checksum_p` over a buffer image: 42_nec_panasonic.md R141 (complement), R151 (XOR). -/
def Checksum.holds : Checksum → List Byte → Bool
  | .complement value check, data => byteAt data check == ~~~ byteAt data value
  | .xorOf sources check, data => sources.foldl (fun acc j => acc ^^^ byteAt data j) 0 == byteAt data check

/-- Little-endian assembly of the buffer bytes `idx`, lowest byte first, into `w` bits, zero-extended
(20_memory.md R52, 30_encoding.md R82). -/
def assembleLE (w : Nat) (data : List Byte) : List Nat → BitVec w
  | [] => 0
  | j :: idx => (assembleLE w data idx) <<< 8 ||| (byteAt data j).setWidth w

/-- `zext_16(address_p(data_p))` (30_encoding.md R82, 42_nec_panasonic.md R143, R153). -/
def ProtoParams.address (P : ProtoParams) (data : List Byte) : BitVec 16 := assembleLE 16 data P.addressBytes

/-- `zext_32(command_p(data_p))` (30_encoding.md R82, 42_nec_panasonic.md R143, R153). -/
def ProtoParams.command (P : ProtoParams) (data : List Byte) : BitVec 32 := assembleLE 32 data P.commandBytes

end Sys2Proof
end

