-- ==== Sys2Proof/Syntax.lean ====
section
/-! DEFINITION. The seven operations of the block (spec/30_encoding.md R70), one constructor per row of
spec/opcode_table.json. Every request word has one format (R71), so every operation carries the 32-bit `now`
field; NOP and RESET ignore it (R71, U10; log 16). -/

namespace Sys2Proof

/-- The operations of 30_encoding.md R70. -/
inductive Instr where
  /-- op 0b000 (45_dispatch.md R198). -/
  | nop (now : Time)
  /-- op 0b001 (45_dispatch.md R190). -/
  | edge (now : Time)
  /-- op 0b010 (45_dispatch.md R195). -/
  | checkTimeout (now : Time)
  /-- op 0b011 (45_dispatch.md R196). -/
  | available (now : Time)
  /-- op 0b100 (45_dispatch.md R197). -/
  | receiving (now : Time)
  /-- op 0b101 (44_gate_read.md R180). -/
  | read (now : Time)
  /-- op 0b111 (45_dispatch.md R199). -/
  | reset (now : Time)
  deriving DecidableEq, Repr

end Sys2Proof
end

