-- ==== Sys2Proof/WellFormed.lean ====
section
/-! DEFINITION. The checks: which request words are well-formed (spec/30_encoding.md R74) and which
configurations are legal (00_scope.md R6, R8, R9). An `Instr` needs no check of its own: its one operand is a
32-bit field that admits every value (30_encoding.md R71). -/

namespace Sys2Proof

/-- A request word is well-formed if its op code is not the reserved 0b110 (30_encoding.md R74). -/
def RequestWord.wellFormed (w : RequestWord) : Bool := w.extractLsb' 32 3 != 0b110#3

/-- R8 (a): `0 < limitLogic < limitHolding <= limitLead < limitTimeout`; `<= 65535` holds by the width. -/
def ProtoParams.limitsLegal (P : ProtoParams) : Bool :=
  decide (0 < P.limitLogic) && decide (P.limitLogic < P.limitHolding) &&
    decide (P.limitHolding ≤ P.limitLead) && decide (P.limitLead < P.limitTimeout)

/-- R8 (b): `N_p` is a positive multiple of 8 and at most 248. -/
def ProtoParams.bitsLegal (P : ProtoParams) : Bool :=
  decide (0 < P.bits) && decide (P.bits % 8 = 0) && decide (P.bits ≤ 248)

/-- R8 (c), 42_nec_panasonic.md R142: a protocol that has a holding signal has a payload that fills the buffer
and satisfies the checksum, as invariant I3 of 10_state.md R38 needs (DEDUCED, log 6). -/
def ProtoParams.holdingLegal (P : ProtoParams) : Bool :=
  decide (P.limitHolding = P.limitLead) ||
    (decide (P.holdingPayload.length = P.bytes) && P.checksum.holds P.holdingPayload)

/-- The bytes a checksum reads. -/
def Checksum.indices : Checksum → List Nat
  | .complement value check => [value, check]
  | .xorOf sources check => check :: sources

/-- Every byte that the checksum, the address and the command name is a byte of the buffer, and the two results
fit the 16 and 32 bits of 30_encoding.md R73 (DEDUCED, log 6). -/
def ProtoParams.layoutLegal (P : ProtoParams) : Bool :=
  P.checksum.indices.all (fun j => decide (j < P.bytes)) &&
    (P.addressBytes ++ P.commandBytes).all (fun j => decide (j < P.bytes)) &&
    decide (P.addressBytes.length ≤ 2) && decide (P.commandBytes.length ≤ 4)

/-- A legal structured parameter set (00_scope.md R8). -/
def ProtoParams.legal (P : ProtoParams) : Bool :=
  P.limitsLegal && P.bitsLegal && P.holdingLegal && P.layoutLegal

/-- A legal hash parameter set (00_scope.md R9); the tolerance is a fraction between 0 and 1 (log 9). -/
def HashParams.legal (H : HashParams) : Bool :=
  decide (0 < H.timeout) && decide (2 ≤ H.maxBlocks) && decide (H.maxBlocks ≤ 254) &&
    decide (0 < H.tolDen) && decide (H.tolNum ≤ H.tolDen)

/-- The parameters of a machine of `M` are legal. -/
def Config.machineLegal (cfg : Config) : MachineId → Bool
  | .structured p => (cfg.params p).legal
  | .hash => cfg.hash.legal

/-- A legal configuration: `M` has one to three members without repetition (00_scope.md R6, U15) and every armed
machine's parameters are legal (R8, R9, U14). -/
def Config.legal (cfg : Config) : Bool :=
  !cfg.machines.isEmpty && decide cfg.machines.Nodup && cfg.machines.all cfg.machineLegal

end Sys2Proof
end

