-- ==== Sys2Proof/Decode.lean ====
section
/-! DEFINITION. The decoder and the encoder of request words (spec/30_encoding.md R70, R71, R74), both written
from the same table of op codes. -/

namespace Sys2Proof

/-- Why a request word has no meaning. -/
inductive DecodeError where
  /-- Op code 0b110 is reserved (30_encoding.md R74). -/
  | reservedOp
  deriving DecidableEq, Repr

/-- Field `op`, bits 34:32 (30_encoding.md R71). -/
def requestOp (w : RequestWord) : BitVec 3 := w.extractLsb' 32 3

/-- Field `now`, bits 31:0 (30_encoding.md R71). -/
def requestNow (w : RequestWord) : Time := w.extractLsb' 0 32

/-- The request word with the given fields (30_encoding.md R71). -/
def requestWord (op : BitVec 3) (now : Time) : RequestWord := op ++ now

/-- The operation a request word stands for: `op` alone tells which (30_encoding.md R70, R71). -/
def decode (w : RequestWord) : Except DecodeError Instr :=
  if requestOp w = 0b000#3 then .ok (.nop (requestNow w))
  else if requestOp w = 0b001#3 then .ok (.edge (requestNow w))
  else if requestOp w = 0b010#3 then .ok (.checkTimeout (requestNow w))
  else if requestOp w = 0b011#3 then .ok (.available (requestNow w))
  else if requestOp w = 0b100#3 then .ok (.receiving (requestNow w))
  else if requestOp w = 0b101#3 then .ok (.read (requestNow w))
  else if requestOp w = 0b111#3 then .ok (.reset (requestNow w))
  else .error .reservedOp

/-- The op code of an operation (30_encoding.md R70). -/
def Instr.opCode : Instr → BitVec 3
  | .nop _ => 0b000
  | .edge _ => 0b001
  | .checkTimeout _ => 0b010
  | .available _ => 0b011
  | .receiving _ => 0b100
  | .read _ => 0b101
  | .reset _ => 0b111

/-- The `now` field of an operation. -/
def Instr.now : Instr → Time
  | .nop now => now
  | .edge now => now
  | .checkTimeout now => now
  | .available now => now
  | .receiving now => now
  | .read now => now
  | .reset now => now

/-- The request word of an operation (30_encoding.md R71). -/
def encode (i : Instr) : RequestWord := requestWord i.opCode i.now

/-- The request word in a number written as spec/opcode_table.json numbers its bits: bits `nbits` and above are 0,
and the request port has no line above bit 34 (log 12). -/
def tableRequest (nbits w : Nat) : RequestWord := BitVec.ofNat 35 (w % 2 ^ nbits)

/-- The operation the decoder reads from a number written as spec/opcode_table.json numbers its bits. -/
def decodeTableWord (nbits w : Nat) : Option Instr :=
  match decode (tableRequest nbits w) with
  | .ok i => some i
  | .error _ => none

end Sys2Proof
end

