-- ==== Sys2Proof/Machine/Instances.lean ====
section
/-! DEFINITION. The default parameter values: the NEC and Panasonic instances (spec/42_nec_panasonic.md) and the
hash machine's parameters (43_hash_decoder.md R160). The values that rest on general knowledge are marked by the
spec and listed in log 4. -/

namespace Sys2Proof

/-- The NEC holding payload for a sentinel address and command: the fourth byte is the complement of the third,
so that the payload satisfies the checksum (42_nec_panasonic.md R142). -/
def necHoldingPayload (address : BitVec 16) (command : Byte) : List Byte :=
  [address.extractLsb' 0 8, address.extractLsb' 8 8, command, ~~~ command]

/-- `HOLD_ADDRESS_NEC`, default (42_nec_panasonic.md R142; log 4). -/
def holdAddressNec : BitVec 16 := 0xFFFF

/-- `HOLD_COMMAND_NEC`, default (42_nec_panasonic.md R142; log 4). -/
def holdCommandNec : Byte := 0x00

/-- The NEC instance (42_nec_panasonic.md R140 to R144). -/
def necDefault : ProtoParams where
  bits := 32
  limitTimeout := 27000
  limitLead := 12375
  limitHolding := 6750
  limitLogic := 1687
  limitRepeat := 162000
  checksum := .complement 2 3
  holdingPayload := necHoldingPayload holdAddressNec holdCommandNec
  addressBytes := [0, 1]
  commandBytes := [2]
  reqTimeoutCheck := false

/-- The Panasonic instance (42_nec_panasonic.md R150 to R154). It has no holding signal (R152), so its payload is
never used and is left empty. -/
def panasonicDefault : ProtoParams where
  bits := 48
  limitTimeout := 27000
  limitLead := 3456
  limitHolding := 3456
  limitLogic := 1296
  limitRepeat := 0
  checksum := .xorOf [2, 3, 4] 5
  holdingPayload := []
  addressBytes := [0, 1]
  commandBytes := [2, 3, 4, 5]
  reqTimeoutCheck := false

/-- The hash machine's defaults (43_hash_decoder.md R160). -/
def hashDefault : HashParams where
  basis := 0x811C9DC5
  prime := 0x01000193
  timeout := 27000
  maxBlocks := 254
  tolNum := 1
  tolDen := 3

/-- The default configuration (00_scope.md R6). -/
def Config.default : Config where
  machines := [.structured .nec, .structured .panasonic, .hash]
  nec := necDefault
  panasonic := panasonicDefault
  hash := hashDefault
  hashFallbackReset := true
  resetLastEdge := 0
  resetLastEvent := 0

end Sys2Proof
end

