-- ==== Sys2Proof/Machine/State.lean ====
section
/-! DEFINITION. The state of the block (spec/10_state.md R20), its reset value (R39), and the reasons a step can
stop. -/

namespace Sys2Proof.Machine

/-- The registers of one Protocol State Machine (10_state.md R20 to R23). -/
@[ext]
structure FrameMachine where
  /-- `count_p`, the bit-fill cursor; its value is the state of the machine (R22, R23). -/
  count : BitVec 8
  /-- `data_p`, the frame buffer, `BYTES_p` bytes (R21). -/
  data : List Byte
  deriving DecidableEq, Repr

/-- The reset value of one Protocol State Machine: `IDLE`, every byte of the buffer 0 (10_state.md R39). -/
def FrameMachine.zero (P : ProtoParams) : FrameMachine :=
  { count := 0, data := List.replicate P.bytes 0 }

/-- The state of the block (10_state.md R20), the configuration it runs under (R28, R40; log 3), and the model's
two port fields (log 1, log 2). -/
@[ext]
structure State where
  /-- The parameters and limit registers: read-only, no operation writes them (R28; log 3). -/
  cfg : Config
  /-- The `now` of the last EDGE that was not blocked (R25). -/
  lastEdgeTime : Time
  /-- The `lastEdgeTime` of the last confirmed structured frame (R26). -/
  lastEventTime : Time
  /-- The "last recognized protocol" tag (R27). -/
  tag : Tag
  /-- "new data pending", the claimed flag of the whole block (R30). -/
  pending : Bool
  /-- The NEC machine (R20). -/
  nec : FrameMachine
  /-- The Panasonic machine (R20). -/
  pan : FrameMachine
  /-- The hash machine's cursor (R33). -/
  hcount : BitVec 8
  /-- The running hash (R34). -/
  hash : BitVec 32
  /-- The duration of the most recent pulse (R35). -/
  hprev : Duration
  /-- The hash machine holds the claim (R32). -/
  hdone : Bool
  /-- The MODEL's own field: the request words still to come, oldest first (log 1). -/
  requests : List RequestWord
  /-- The MODEL's own field: the response word of the last operation (log 2). -/
  response : ResponseWord
  deriving DecidableEq, Repr

/-- The block has no fault: "There is no exception propagation; every fault path is a local state reset", and a
model must not add a fault outcome to any operation (60_exceptions.md R231; log 13). So this type has no
constructor. -/
inductive Fault where
  deriving DecidableEq, Repr

/-- Why the model gives a step no meaning. -/
inductive Refusal where
  /-- Raised by an arm of `exec` whose instruction has no meaning yet; no arm is left that raises it. Safe. -/
  | notModelled (mnemonic : String)
  /-- Raised by `step` on a request word with the reserved op code 0b110 (30_encoding.md R74, U9). Safe. -/
  | reservedOp
  /-- Raised by `step` under a configuration that breaks 00_scope.md R6, R8 or R9 (U14, U15; log 6). Safe. -/
  | illegalConfiguration
  deriving DecidableEq, Repr

/-- The registers of the structured machine `p`. -/
def State.machine (s : State) : Proto → FrameMachine
  | .nec => s.nec
  | .panasonic => s.pan

/-- Write the registers of the structured machine `p`. -/
def State.setMachine (s : State) (p : Proto) (m : FrameMachine) : State :=
  match p with
  | .nec => { s with nec := m }
  | .panasonic => { s with pan := m }

/-- The parameters of the structured machine `p`. -/
def State.params (s : State) (p : Proto) : ProtoParams := s.cfg.params p

/-- The machine right after reset under the default configuration (10_state.md R39, 70_reset_and_hazards.md
R260), with no request yet made (log 1). -/
def State.reset : State where
  cfg := Config.default
  lastEdgeTime := Config.default.resetLastEdge
  lastEventTime := Config.default.resetLastEvent
  tag := .none
  pending := false
  nec := FrameMachine.zero Config.default.nec
  pan := FrameMachine.zero Config.default.panasonic
  hcount := 0
  hash := 0
  hprev := 0
  hdone := false
  requests := []
  response := 0

end Sys2Proof.Machine
end

