-- ==== Sys2Proof/Machine/Ops.lean ====
section
/-! DEFINITION. The shared operations on the state: the Edge Clock (spec/40_edge_clock.md), the discard
(60_exceptions.md R230), the bit store (41_protocol_machine.md R117), the two claims (R121, 43_hash_decoder.md
R171), the result snapshots (44_gate_read.md R182, R183) and reset (10_state.md R39). The block takes no exception
and returns from none (60_exceptions.md R231, R233): the discard is all it has. -/

namespace Sys2Proof.Machine

/-- `sat16(e)` (00_scope.md R11). -/
def sat16 (e : Time) : Duration := if 65535 < e.toNat then 65535 else e.setWidth 16

/-- `elapsed(now) = (now - lastEdgeTime) mod 2^32` (00_scope.md R11). -/
def State.elapsed (s : State) (now : Time) : Time := now - s.lastEdgeTime

/-- `peekElapsed(now)` (40_edge_clock.md R103): it writes nothing. -/
def State.peekElapsed (s : State) (now : Time) : Duration := sat16 (s.elapsed now)

/-- `nextDuration(now)` (40_edge_clock.md R101): the duration and the state in which `lastEdgeTime` is `now`. -/
def nextDuration (now : Time) (s : State) : Duration × State :=
  (sat16 (s.elapsed now), { s with lastEdgeTime := now })

/-- The discard classes (60_exceptions.md R230): labels on transitions, recorded nowhere (log 14). -/
inductive DiscardClass where
  /-- (a) "Noise/invalid-lead". -/
  | noise
  /-- (b) "Checksum failure". -/
  | checksumFailure
  /-- (c) "Buffer/repeat-window expiry". -/
  | expiry
  deriving DecidableEq, Repr

/-- `count_p <- 0 ; discard(x)` (60_exceptions.md R230, R232): the cursor returns to `IDLE`, the bytes stay, and
the class leaves no trace. -/
def discardFrame (_ : DiscardClass) (m : FrameMachine) : FrameMachine := { m with count := 0 }

/-- One shift of a buffer byte: right by one bit, the top bit set for a logical one (20_memory.md R51,
41_protocol_machine.md R117). -/
def shiftBit (one : Bool) (b : Byte) : Byte := (b >>> 1) ||| (if one then 0x80 else 0x00)

/-- The bit store at slot `c` (41_protocol_machine.md R117): data bit `k = c - 2` enters byte `k div 8`. -/
def storeBit (one : Bool) (c : Nat) (data : List Byte) : List Byte :=
  data.modify ((c - 2) / 8) (shiftBit one)

/-- `claim_p()` (41_protocol_machine.md R121), with the fallback reset of 43_hash_decoder.md R173. -/
def claim (p : Proto) (s : State) : State :=
  { s.setMachine p { s.machine p with count := BitVec.ofNat 8 (s.params p).done } with
    lastEventTime := s.lastEdgeTime
    tag := p.tag
    pending := true
    hcount := if s.cfg.hashFallbackReset && s.cfg.machines.contains .hash then 0 else s.hcount }

/-- `publish_HASH()` (43_hash_decoder.md R171). -/
def publishHash (s : State) : State := { s with hdone := true, tag := .hash, pending := true }

/-- What a READ that returns a structured result writes (44_gate_read.md R182). -/
def releaseStructured (p : Proto) (s : State) : State :=
  { s.setMachine p { s.machine p with count := 0 } with pending := false }

/-- What a READ that returns a hash result writes (44_gate_read.md R183). -/
def releaseHash (s : State) : State := { s with hcount := 0, hdone := false, pending := false }

/-- Every element of the block's state at its reset value (10_state.md R39). The configuration (R28) and the
requests still to come are no elements of that state. -/
def resetBlock (s : State) : State :=
  { s with
    lastEdgeTime := s.cfg.resetLastEdge
    lastEventTime := s.cfg.resetLastEvent
    tag := .none
    pending := false
    nec := FrameMachine.zero s.cfg.nec
    pan := FrameMachine.zero s.cfg.panasonic
    hcount := 0
    hash := 0
    hprev := 0
    hdone := false }

end Sys2Proof.Machine
end

