-- ==== Sys2Proof/Machine/Operands.lean ====
section
/-! DEFINITION. The two operand forms of the block: a duration read in a slot (spec/30_encoding.md R75) and the
response word with its fields (R73, R82). -/

namespace Sys2Proof.Machine

/-- The duration classes (30_encoding.md R75). "Checksum-terminator" is a slot, not a class. -/
inductive DurationClass where
  | timeout
  | ignored
  | invalidLead
  | hold
  | lead
  | zero
  | one
  deriving DecidableEq, Repr

/-- The class of duration `d` in slot `c`, `0 <= c <= TERM_p` (30_encoding.md R75): the timeout test comes first
in every slot (41_protocol_machine.md R122). -/
def classify (P : ProtoParams) (c : Nat) (d : Duration) : DurationClass :=
  if P.limitTimeout ≤ d then .timeout
  else if c = 0 then .ignored
  else if c = 1 then
    if d < P.limitHolding then .invalidLead
    else if d < P.limitLead then .hold
    else .lead
  else if d < P.limitLogic then .zero
  else .one

/-- The fields of the response word (30_encoding.md R73). -/
structure Response where
  valid : Bool
  tag : Tag
  flag : Bool
  address : BitVec 16
  command : BitVec 32
  deriving DecidableEq, Repr

/-- The response of an operation that answers nothing, and of a READ with no data: every field 0
(30_encoding.md R73, 44_gate_read.md R181). -/
def Response.empty : Response := { valid := false, tag := .none, flag := false, address := 0, command := 0 }

/-- The boolean answer of AVAILABLE and RECEIVING: every other field 0 (30_encoding.md R73). -/
def Response.ofFlag (flag : Bool) : Response := { Response.empty with flag := flag }

/-- The 52-bit response word (30_encoding.md R73): `valid`, `tag`, `flag`, `address`, `command` from bit 51
down. -/
def Response.word (r : Response) : ResponseWord :=
  BitVec.ofBool r.valid ++ r.tag.code ++ BitVec.ofBool r.flag ++ r.address ++ r.command

/-- The result of a structured owner (44_gate_read.md R182, 30_encoding.md R82). -/
def structuredResult (p : Proto) (s : State) : Response :=
  { valid := true
    tag := p.tag
    flag := false
    address := (s.params p).address (s.machine p).data
    command := (s.params p).command (s.machine p).data }

/-- The result of the hash machine (44_gate_read.md R183, 43_hash_decoder.md R174). -/
def hashResult (s : State) : Response :=
  { valid := true
    tag := .hash
    flag := false
    address := (s.hcount - 1).setWidth 16
    command := s.hash }

/-- Put a response on the response port (log 2). -/
def State.answer (s : State) (r : Response) : State := { s with response := r.word }

end Sys2Proof.Machine
end

