-- ==== Sys2Proof/Machine/Flags.lean ====
section
/-! DEFINITION. The derived predicates the block's rules test: the claimed flag of a machine (spec/10_state.md
R31), the repeat window (41_protocol_machine.md R110), mid-reception (45_dispatch.md R197) and the need for
timeout checking (00_scope.md R7, 43_hash_decoder.md R160). -/

namespace Sys2Proof.Machine

/-- `claimed_p = (count_p = DONE_p)`, `claimed_HASH = (hdone = 1)` (10_state.md R31). -/
def State.claimed (s : State) : MachineId → Bool
  | .structured p => decide ((s.machine p).count.toNat = (s.params p).done)
  | .hash => s.hdone

/-- `inWindow = ((lastEdgeTime - lastEventTime) mod 2^32) < limitRepeat_p` (41_protocol_machine.md R110, R114):
32 bits, not saturated. -/
def State.inWindow (s : State) (p : Proto) : Bool :=
  decide (s.lastEdgeTime - s.lastEventTime < (s.params p).limitRepeat)

/-- `inProgress_m` (45_dispatch.md R197). -/
def State.inProgress (s : State) : MachineId → Bool
  | .structured p => decide (1 ≤ (s.machine p).count.toNat) && decide ((s.machine p).count.toNat ≤ (s.params p).term)
  | .hash => decide (1 ≤ s.hcount.toNat) && !s.hdone

/-- `timeout_m` (45_dispatch.md R197). -/
def timeoutOf (cfg : Config) : MachineId → Duration
  | .structured p => (cfg.params p).limitTimeout
  | .hash => cfg.hash.timeout

/-- `reqTimeoutCheck_m` (45_dispatch.md R192): a parameter of a structured machine, 1 for the hash machine
(43_hash_decoder.md R160). -/
def requiresTimeoutCheck (cfg : Config) : MachineId → Bool
  | .structured p => (cfg.params p).reqTimeoutCheck
  | .hash => true

/-- `exists m in M with inProgress_m and e16 < timeout_m` (45_dispatch.md R197). -/
def State.receivingFlag (s : State) (e16 : Duration) : Bool :=
  s.cfg.machines.any fun m => s.inProgress m && decide (e16 < timeoutOf s.cfg m)

end Sys2Proof.Machine
end

