-- ==== Sys2Proof/Machine/HashDecoder.lean ====
section
/-! DEFINITION. The Generic Timing-Hash Decoder (spec/43_hash_decoder.md). -/

namespace Sys2Proof.Machine

/-- `cmp(prev, new)` (43_hash_decoder.md R162) for the tolerance `tolNum / tolDen` (log 9); with 1/3 the three
factors are 3, 2 and 4. The products are exact, and the "shorter" test comes first. -/
def compareCode (H : HashParams) (prev new : Duration) : BitVec 32 :=
  if H.tolDen * new.toNat ≤ (H.tolDen - H.tolNum) * prev.toNat then 0
  else if (H.tolDen + H.tolNum) * prev.toNat ≤ H.tolDen * new.toNat then 2
  else 1

/-- The fold: multiply first, modulo `2^32`, then XOR (43_hash_decoder.md R163). -/
def foldHash (H : HashParams) (hash code : BitVec 32) : BitVec 32 := (hash * H.prime) ^^^ code

/-- A later pulse (43_hash_decoder.md R169) with the forced end (R170). -/
def laterPulse (d : Duration) (s : State) : State :=
  let taken : State :=
    { s with
      hash := foldHash s.cfg.hash s.hash (compareCode s.cfg.hash s.hprev d)
      hprev := d
      hcount := s.hcount + 1 }
  if (taken.hcount - 1).toNat = s.cfg.hash.maxBlocks then publishHash taken else taken

/-- `onEdge_HASH(d)` (43_hash_decoder.md R164 to R170). -/
def onEdgeHash (d : Duration) (s : State) : State :=
  if s.cfg.hash.timeout ≤ d then
    if s.hcount.toNat = 0 then { s with hash := s.cfg.hash.basis, hcount := 1 }   -- R164
    else if s.hcount.toNat = 1 then s                                             -- R165
    else publishHash s                                                            -- R166
  else if s.hcount.toNat = 0 then s                                               -- R167
  else if s.hcount.toNat = 1 then { s with hprev := d, hcount := 2 }              -- R168
  else laterPulse d s                                                             -- R169, R170

/-- `checkTimeout_HASH(e16)` (43_hash_decoder.md R172). -/
def checkTimeoutHash (e16 : Duration) (s : State) : State :=
  if 2 ≤ s.hcount.toNat ∧ s.cfg.hash.timeout ≤ e16 then publishHash s else s

end Sys2Proof.Machine
end

