-- ==== Sys2Proof/Machine/ProtocolMachine.lean ====
section
/-! DEFINITION. The Protocol State Machine (spec/41_protocol_machine.md), one definition for every structured
protocol. -/

namespace Sys2Proof.Machine

/-- The lead slot's holding signal (41_protocol_machine.md R114 in the window, R115 outside it). -/
def onHold (p : Proto) (s : State) : State :=
  if s.inWindow p then
    claim p (s.setMachine p { s.machine p with data := (s.params p).holdingPayload })
  else s.setMachine p (discardFrame .expiry (s.machine p))

/-- A data slot (41_protocol_machine.md R117, then R118, R119 or R120). -/
def onBit (p : Proto) (one : Bool) (s : State) : State :=
  let c := (s.machine p).count.toNat
  let stored := s.setMachine p { s.machine p with data := storeBit one c (s.machine p).data }
  if c < (s.params p).term then
    stored.setMachine p { stored.machine p with count := (stored.machine p).count + 1 }
  else if (s.params p).checksum.holds (stored.machine p).data then claim p stored
  else stored.setMachine p (discardFrame .checksumFailure (stored.machine p))

/-- A timeout: armed from `IDLE`, otherwise the frame is abandoned (41_protocol_machine.md R111). -/
def onTimeout (p : Proto) (s : State) : State :=
  if (s.machine p).count.toNat = 0 then s.setMachine p { s.machine p with count := 1 }
  else s.setMachine p (discardFrame .expiry (s.machine p))

/-- `onEdge_p(d)` (41_protocol_machine.md R110). A cursor past `TERM_p` takes no edge: `COMPLETE` is absorbing
(R126), and with nothing pending no run reaches it (log 7). -/
def onEdge (p : Proto) (d : Duration) (s : State) : State :=
  if (s.params p).term < (s.machine p).count.toNat then s
  else
    match classify (s.params p) (s.machine p).count.toNat d with
    | .timeout => onTimeout p s
    | .ignored => s
    | .invalidLead => s.setMachine p (discardFrame .noise (s.machine p))
    | .hold => onHold p s
    | .lead => s.setMachine p { s.machine p with count := 2 }
    | .zero => onBit p false s
    | .one => onBit p true s

/-- `checkTimeout_p(e16)` (41_protocol_machine.md R124). -/
def checkTimeoutStructured (p : Proto) (e16 : Duration) (s : State) : State :=
  if s.inProgress (.structured p) && decide ((s.params p).limitTimeout ≤ e16) then
    s.setMachine p (discardFrame .expiry (s.machine p))
  else s

end Sys2Proof.Machine
end

