-- ==== Sys2Proof/Machine/Arbiter.lean ====
section
/-! DEFINITION. The Multi-Protocol Dispatch (spec/45_dispatch.md): the timeout phase, the fan-out, and the
operations EDGE, CHECK_TIMEOUT, AVAILABLE, RECEIVING, NOP and RESET. -/

namespace Sys2Proof.Machine

/-- One machine's self-expiry (45_dispatch.md R192). -/
def checkTimeoutOf (e16 : Duration) (m : MachineId) (s : State) : State :=
  match m with
  | .structured p => checkTimeoutStructured p e16 s
  | .hash => checkTimeoutHash e16 s

/-- One machine's transition function (45_dispatch.md R190). -/
def onEdgeOf (d : Duration) (m : MachineId) (s : State) : State :=
  match m with
  | .structured p => onEdge p d s
  | .hash => onEdgeHash d s

/-- The loop of the timeout phase over the machines left, stopping at a claim (45_dispatch.md R192). -/
def timeoutLoop (e16 : Duration) : List MachineId → State → State
  | [], s => s
  | m :: ms, s =>
    if s.pending then s
    else timeoutLoop e16 ms (if requiresTimeoutCheck s.cfg m then checkTimeoutOf e16 m s else s)

/-- `timeoutPhase(now)` (45_dispatch.md R192). -/
def timeoutPhase (now : Time) (s : State) : State := timeoutLoop (s.peekElapsed now) s.cfg.machines s

/-- The fan-out of one duration over the machines left, stopping at the first claim (45_dispatch.md R193,
R194). -/
def fanOut (d : Duration) : List MachineId → State → State
  | [], s => s
  | m :: ms, s => if s.pending then s else fanOut d ms (onEdgeOf d m s)

/-- An unblocked edge after the timeout phase: the Edge Clock, then the fan-out (45_dispatch.md R190). -/
def dispatchEdge (now : Time) (s : State) : State :=
  fanOut (nextDuration now s).1 s.cfg.machines (nextDuration now s).2

/-- The state EDGE leaves, its response aside (45_dispatch.md R190, R191). -/
def edgeEffect (now : Time) (s : State) : State :=
  if s.pending then s
  else if (timeoutPhase now s).pending then timeoutPhase now s
  else dispatchEdge now (timeoutPhase now s)

/-- EDGE (45_dispatch.md R190): no response fields. -/
def execEdge (now : Time) (s : State) : Host.Outcome State Fault Refusal :=
  .next ((edgeEffect now s).answer Response.empty)

/-- CHECK_TIMEOUT (45_dispatch.md R195): no response fields. -/
def execCheckTimeout (now : Time) (s : State) : Host.Outcome State Fault Refusal :=
  .next ((timeoutPhase now s).answer Response.empty)

/-- AVAILABLE (45_dispatch.md R196). -/
def execAvailable (now : Time) (s : State) : Host.Outcome State Fault Refusal :=
  let t := timeoutPhase now s
  .next (t.answer (Response.ofFlag t.pending))

/-- RECEIVING (45_dispatch.md R197). -/
def execReceiving (now : Time) (s : State) : Host.Outcome State Fault Refusal :=
  let t := timeoutPhase now s
  .next (t.answer (Response.ofFlag (if t.pending then false else t.receivingFlag (t.peekElapsed now))))

/-- NOP (45_dispatch.md R198): it writes nothing and answers nothing; `now` is ignored. -/
def execNop (_now : Time) (s : State) : Host.Outcome State Fault Refusal :=
  .next (s.answer Response.empty)

/-- RESET (45_dispatch.md R199): `now` is ignored; no response fields. -/
def execReset (_now : Time) (s : State) : Host.Outcome State Fault Refusal :=
  .next ((resetBlock s).answer Response.empty)

end Sys2Proof.Machine
end

