-- ==== Sys2Proof/Machine/Gate.lean ====
section
/-! DEFINITION. The Frame Completion Gate: READ (spec/44_gate_read.md). -/

namespace Sys2Proof.Machine

/-- READ of the structured owner `p` (44_gate_read.md R182). -/
def readStructured (p : Proto) (s : State) : State := (releaseStructured p s).answer (structuredResult p s)

/-- READ of the hash machine (44_gate_read.md R183). -/
def readHash (s : State) : State := (releaseHash s).answer (hashResult s)

/-- What READ does after the timeout phase (44_gate_read.md R180): nothing claimed (R181), a structured owner
(R182) or the hash machine (R183), found by `tag`. A claim with no owner, which no run reaches, answers as
nothing claimed (log 7). -/
def readClaim (s : State) : State :=
  if s.pending then
    match s.tag with
    | .none => s.answer Response.empty
    | .nec => readStructured .nec s
    | .panasonic => readStructured .panasonic s
    | .hash => readHash s
  else s.answer Response.empty

/-- READ (44_gate_read.md R180). -/
def execRead (now : Time) (s : State) : Host.Outcome State Fault Refusal :=
  .next (readClaim (timeoutPhase now s))

end Sys2Proof.Machine
end

