-- ==== Sys2Proof/Machine/Dispatch.lean ====
section
/-! DEFINITION. The meaning of every operation, one arm per constructor (spec/30_encoding.md R70). -/

namespace Sys2Proof.Machine

def exec (i : Instr) (s : State) : Host.Outcome State Fault Refusal :=
  match i with
  | .nop now => Sys2Proof.Machine.execNop now s
  | .edge now => Sys2Proof.Machine.execEdge now s
  | .checkTimeout now => Sys2Proof.Machine.execCheckTimeout now s
  | .available now => Sys2Proof.Machine.execAvailable now s
  | .receiving now => Sys2Proof.Machine.execReceiving now s
  | .read now => Sys2Proof.Machine.execRead now s
  | .reset now => Sys2Proof.Machine.execReset now s

end Sys2Proof.Machine
end

