-- ==== Sys2Proof/Machine/Requests.lean ====
section
/-! DEFINITION. The request port (spec/30_encoding.md R71, 20_memory.md R58; log 1): which word a step takes, what
is left after it, and how a word is presented. -/

namespace Sys2Proof.Machine

/-- The word the next step takes: the oldest request, or NOP's word in a cycle in which no request is made
(45_dispatch.md R198; log 1). -/
def State.nextRequest (s : State) : RequestWord := s.requests.headD 0

/-- The state once the oldest request is taken from the port (log 1). -/
def State.takeRequest (s : State) : State := { s with requests := s.requests.tail }

/-- The state whose oldest request is replaced by `w`. -/
def State.present (s : State) (w : RequestWord) : State := { s with requests := w :: s.requests.tail }

/-- The refusal a request word that does not decode is given (30_encoding.md R74). -/
def refusalOf : DecodeError → Refusal
  | .reservedOp => .reservedOp

end Sys2Proof.Machine
end

