-- ==== Sys2Proof/Machine/Step.lean ====
section
/-! DEFINITION. One step: under a legal configuration, take the oldest request word, decode it and run it
(spec/20_memory.md R54, R58; 30_encoding.md R71, R74; 00_scope.md R8). -/

namespace Sys2Proof.Machine

/-- One step. The configuration is checked first (00_scope.md R6, R8, R9; log 6). -/
def step (s : State) : Host.Outcome State Fault Refusal :=
  if s.cfg.legal then
    match decode s.nextRequest with
    | .ok i => exec i s.takeRequest
    | .error e => .refused (refusalOf e)
  else .refused .illegalConfiguration

/-- `s` with the operation of a table word as the oldest request, so that the next step runs it (log 1). -/
def State.withFetchWord (s : State) (nbits w : Nat) : State := s.present (tableRequest nbits w)

end Sys2Proof.Machine
end

