-- ==== Sys2Proof/Safety.lean ====
section
/-! DEFINITION. What a good state is, and the terms the statements about the block are written in: the invariants
of spec/10_state.md R38, and the frame a sequence of durations spells (20_memory.md R51, R52). -/

namespace Sys2Proof.Machine

/-- Machine `m` is armed: a member of `M` (00_scope.md R13). -/
def State.armed (s : State) (m : MachineId) : Prop := m ∈ s.cfg.machines

/-- The invariants of 10_state.md R38, for the armed machines, with what makes them inductive: the buffer's size
(R21), an open hash sequence has at most `HASH_MAX_BLOCKS` in its cursor (R170), and a pending structured claim
has left the hash machine idle where `HASH_FALLBACK_RESET` holds (43_hash_decoder.md R173). -/
structure State.Inv (s : State) : Prop where
  /-- The configuration is legal (00_scope.md R8, R9). -/
  legal : s.cfg.legal = true
  /-- I1, the structured cursors. -/
  count_le : ∀ p, s.armed (.structured p) → (s.machine p).count.toNat ≤ (s.params p).done
  /-- I1, the hash cursor. -/
  hcount_le : s.armed .hash → s.hcount.toNat ≤ s.cfg.hash.maxBlocks + 1
  /-- R21: `data_p` has `BYTES_p` bytes. -/
  data_length : ∀ p, s.armed (.structured p) → (s.machine p).data.length = (s.params p).bytes
  /-- I2: an armed machine is claimed exactly when a claim is pending and the tag is its id. -/
  claimed_iff : ∀ m, s.armed m → (s.claimed m = true ↔ s.pending = true ∧ s.tag = m.tag)
  /-- I2: a pending claim has an armed owner. -/
  owner_armed : s.pending = true → ∃ m, s.armed m ∧ s.tag = m.tag
  /-- I3: a claimed structured machine holds a frame whose checksum holds. -/
  checksum_holds : ∀ p, s.armed (.structured p) → s.claimed (.structured p) = true →
    (s.params p).checksum.holds (s.machine p).data = true
  /-- I4. -/
  hdone_hcount : s.armed .hash → s.hdone = true → 2 ≤ s.hcount.toNat
  /-- An unpublished hash sequence is shorter than the forced end (R170). -/
  hcount_open : s.armed .hash → s.hdone = false → s.hcount.toNat ≤ s.cfg.hash.maxBlocks
  /-- A pending structured claim has left the hash machine idle (R173). -/
  fallback_idle : s.pending = true → s.tag ≠ .hash → s.cfg.hashFallbackReset = true → s.armed .hash →
    s.hcount = 0

/-- The two states agree on the configuration and on the requests still to come: what no operation of the block
touches (10_state.md R28; log 1). -/
def SamePorts (s t : State) : Prop := t.cfg = s.cfg ∧ t.requests = s.requests

/-- A data duration is a logical one (41_protocol_machine.md R117). -/
def isOne (P : ProtoParams) (d : Duration) : Bool := decide (P.limitLogic ≤ d)

/-- The byte whose bit `r` is `f r` (20_memory.md R51: bit 0 is received first). -/
def byteOfBits (f : Nat → Bool) : Byte :=
  BitVec.ofNat 8 ((List.range 8).foldl (fun acc r => acc + (if f r then 2 ^ r else 0)) 0)

/-- The buffer image that `N_p` data durations spell: data bit `k` is bit `k mod 8` of byte `k div 8`
(20_memory.md R52). -/
def frameOf (P : ProtoParams) (ds : List Duration) : List Byte :=
  (List.range P.bytes).map fun j => byteOfBits fun r => isOne P (ds.getD (8 * j + r) 0)

/-- The structured machine `p` fed with the durations of consecutive edges, oldest first. -/
def feed (p : Proto) (ds : List Duration) (s : State) : State := ds.foldl (fun t d => onEdge p d t) s

/-- The hash machine fed with the durations of consecutive edges, oldest first. -/
def feedHash (ds : List Duration) (s : State) : State := ds.foldl (fun t d => onEdgeHash d t) s

/-- The comparison codes of consecutive pulses, the first compared with `prev` (43_hash_decoder.md R162). -/
def codesFrom (H : HashParams) : Duration → List Duration → List (BitVec 32)
  | _, [] => []
  | prev, d :: ds => compareCode H prev d :: codesFrom H d ds

/-- The hash machine's opening silence has ended a sequence: it has a pulse and `e16` reaches its timeout
(43_hash_decoder.md R172). -/
def State.hashDue (s : State) (e16 : Duration) : Prop :=
  s.armed .hash ∧ 2 ≤ s.hcount.toNat ∧ s.cfg.hash.timeout ≤ e16

/-- The structured machine `p` self-expires at `e16` (41_protocol_machine.md R124). -/
def State.staleFrame (s : State) (p : Proto) (e16 : Duration) : Prop :=
  (s.params p).reqTimeoutCheck = true ∧ 1 ≤ (s.machine p).count.toNat ∧
    (s.machine p).count.toNat ≤ (s.params p).term ∧ (s.params p).limitTimeout ≤ e16

/-- The state of a claim by the structured machine `p` whose buffer is `data`, written out element by element
(41_protocol_machine.md R121). -/
def claimedBy (p : Proto) (data : List Byte) (s : State) : State :=
  { s.setMachine p { count := BitVec.ofNat 8 ((s.params p).bits + 2), data := data } with
    lastEventTime := s.lastEdgeTime
    tag := p.tag
    pending := true
    hcount := if s.cfg.hashFallbackReset = true ∧ MachineId.hash ∈ s.cfg.machines then 0 else s.hcount }

/-- The times of consecutive edges that are the given durations apart, the first measured from `last`. -/
def edgeTimes : Time → List Duration → List Time
  | _, [] => []
  | last, d :: ds => (last + d.setWidth 32) :: edgeTimes (last + d.setWidth 32) ds

/-- The operations one after another, stopping where one has no next state (20_memory.md R58). -/
def runOps : List Instr → State → Host.Outcome State Fault Refusal
  | [], s => .next s
  | i :: is, s =>
    match exec i s with
    | .next t => runOps is t
    | .fault r => .fault r
    | .refused r => .refused r

end Sys2Proof.Machine
end

