-- ==== Sys2Proof/Certificates/Slice0/Obligations.lean ====
section
/-! DEFINITION. The statements about the block. Each docstring names the rules of spec/ a statement rests on. The
block has no memory (10_state.md R36), so a frame is about registers only, and an equation that gives the whole
next state is its own frame. A configuration is part of the state (log 3), so a statement about every state is
about every configuration. -/

open Sys2Proof Sys2Proof.Machine

/-! ### Request words, decoding and the step -/

/-- 30_encoding.md R70, R71: words written out from the field table (`op` 34:32, `now` 31:0). -/
def Obligations.WrittenWordsDecode : Prop :=
  decode 0x000000000#35 = .ok (.nop 0) ∧
  decode 0x100000000#35 = .ok (.edge 0) ∧
  decode 0x1FFFFFFFF#35 = .ok (.edge 0xFFFFFFFF) ∧
  decode 0x2000231FE#35 = .ok (.checkTimeout 143870) ∧
  decode 0x300028488#35 = .ok (.available 165000) ∧
  decode 0x40001FBD0#35 = .ok (.receiving 130000) ∧
  decode 0x500029810#35 = .ok (.read 170000) ∧
  decode 0x600000000#35 = .error .reservedOp ∧
  decode 0x700003039#35 = .ok (.reset 12345)

/-- 30_encoding.md R70, R71: the decoder reads back every operation the encoder writes, with every operand. -/
def Obligations.DecodeOfEncode : Prop := ∀ i : Instr, decode (encode i) = .ok i

/-- 30_encoding.md R70, R71: a word that decodes is the word of what it decodes to, so no bit is dropped. -/
def Obligations.EncodeOfDecode : Prop := ∀ (w : RequestWord) (i : Instr), decode w = .ok i → encode i = w

/-- 30_encoding.md R74: op code 0b110, and no other, has no meaning, and a step on it is refused. -/
def Obligations.ReservedOpCodeRefused : Prop :=
  (∀ w : RequestWord, (decode w = .error .reservedOp ↔ requestOp w = 0b110#3) ∧
    (RequestWord.wellFormed w = false ↔ requestOp w = 0b110#3) ∧
    (requestOp w ≠ 0b110#3 → ∃ i, decode w = .ok i)) ∧
  (∀ s : State, s.cfg.legal = true → requestOp s.nextRequest = 0b110#3 → step s = .refused .reservedOp)

/-- A step runs the operation of the oldest request word, which leaves the port; with no request it runs NOP
(45_dispatch.md R198; the port is the model's, log 1). -/
def Obligations.StepRunsDecodedRequest : Prop :=
  (∀ (s : State) (w : RequestWord) (rest : List RequestWord) (i : Instr), s.cfg.legal = true →
    s.requests = w :: rest → decode w = .ok i → step s = exec i { s with requests := rest }) ∧
  (∀ s : State, s.cfg.legal = true → s.requests = [] → step s = exec (.nop 0) s)

/-- The next step runs the word that was presented (log 1, log 12: the port is the model's choice). -/
def Obligations.PresentedWordRuns : Prop :=
  ∀ (s : State) (i : Instr), s.cfg.legal = true →
    step (s.withFetchWord 40 (encode i).toNat) = exec i { s with requests := s.requests.tail }

/-- 00_scope.md R6, R8, R9 with the model's own clauses of log 6 and log 9: what a legal configuration is; under
any other one, a step is refused. -/
def Obligations.LegalConfigurationMeaning : Prop :=
  (∀ cfg : Config, cfg.legal = true ↔
    cfg.machines ≠ [] ∧ cfg.machines.Nodup ∧
    (∀ p, MachineId.structured p ∈ cfg.machines →
      0 < (cfg.params p).limitLogic ∧ (cfg.params p).limitLogic < (cfg.params p).limitHolding ∧
      (cfg.params p).limitHolding ≤ (cfg.params p).limitLead ∧
      (cfg.params p).limitLead < (cfg.params p).limitTimeout ∧
      0 < (cfg.params p).bits ∧ 8 ∣ (cfg.params p).bits ∧ (cfg.params p).bits ≤ 248 ∧
      ((cfg.params p).limitHolding = (cfg.params p).limitLead ∨
        ((cfg.params p).holdingPayload.length = (cfg.params p).bytes ∧
          (cfg.params p).checksum.holds (cfg.params p).holdingPayload = true)) ∧
      (∀ j ∈ (cfg.params p).checksum.indices ++ (cfg.params p).addressBytes ++ (cfg.params p).commandBytes,
        j < (cfg.params p).bytes) ∧
      (cfg.params p).addressBytes.length ≤ 2 ∧ (cfg.params p).commandBytes.length ≤ 4) ∧
    (MachineId.hash ∈ cfg.machines →
      0 < cfg.hash.timeout ∧ 2 ≤ cfg.hash.maxBlocks ∧ cfg.hash.maxBlocks ≤ 254 ∧
      0 < cfg.hash.tolDen ∧ cfg.hash.tolNum ≤ cfg.hash.tolDen)) ∧
  (∀ s : State, s.cfg.legal = false → step s = .refused .illegalConfiguration)

/-- 60_exceptions.md R231: no operation faults, whatever the state. -/
def Obligations.EveryOperationCompletes : Prop :=
  ∀ (i : Instr) (s : State), ∃ t, exec i s = .next t

/-! ### The Edge Clock -/

/-- 40_edge_clock.md R101, R103: the duration is the elapsed time modulo `2^32`, saturated at 65535;
`nextDuration` moves `lastEdgeTime` and nothing else. -/
def Obligations.EdgeClockDuration : Prop :=
  ∀ (now : Time) (s : State),
    (nextDuration now s).1.toNat = min 65535 ((now.toNat + 2 ^ 32 - s.lastEdgeTime.toNat) % 2 ^ 32) ∧
    (nextDuration now s).2 = { s with lastEdgeTime := now } ∧
    (s.peekElapsed now).toNat = min 65535 ((now.toNat + 2 ^ 32 - s.lastEdgeTime.toNat) % 2 ^ 32)

/-- 40_edge_clock.md R102: an elapsed time of 65535 or more is a timeout in every armed machine, in every slot
(41_protocol_machine.md R111, 43_hash_decoder.md R164 to R166). -/
def Obligations.SaturatedDurationIsTimeout : Prop :=
  ∀ (now : Time) (s : State), s.Inv → s.pending = false → 65535 ≤ (now - s.lastEdgeTime).toNat →
    (∀ p, s.armed (.structured p) →
      ((onEdge p (nextDuration now s).1 (nextDuration now s).2).machine p).count =
        if (s.machine p).count = 0 then 1 else 0) ∧
    (s.armed .hash →
      (s.hcount = 0 → onEdgeHash (nextDuration now s).1 (nextDuration now s).2 =
        { s with lastEdgeTime := now, hash := s.cfg.hash.basis, hcount := 1 }) ∧
      (s.hcount = 1 → onEdgeHash (nextDuration now s).1 (nextDuration now s).2 =
        { s with lastEdgeTime := now }) ∧
      (2 ≤ s.hcount.toNat → (onEdgeHash (nextDuration now s).1 (nextDuration now s).2).hdone = true))

/-! ### The Protocol State Machine -/

/-- 41_protocol_machine.md R111: a timeout in any slot up to `TERM_p`. -/
def Obligations.TimeoutInAnySlot : Prop :=
  ∀ (p : Proto) (d : Duration) (s : State),
    (s.machine p).count.toNat ≤ (s.params p).term → (s.params p).limitTimeout ≤ d →
    onEdge p d s = s.setMachine p { s.machine p with count := if (s.machine p).count = 0 then 1 else 0 }

/-- 41_protocol_machine.md R112: a shorter duration in `IDLE` is ignored. -/
def Obligations.IdleIgnoresShortDurations : Prop :=
  ∀ (p : Proto) (d : Duration) (s : State), (s.machine p).count = 0 → d < (s.params p).limitTimeout →
    onEdge p d s = s

/-- 41_protocol_machine.md R113 to R116: the lead slot below the timeout limit. -/
def Obligations.LeadSlotTransitions : Prop :=
  ∀ (p : Proto) (d : Duration) (s : State), (s.machine p).count = 1 → d < (s.params p).limitTimeout →
    (d < (s.params p).limitHolding →
      onEdge p d s = s.setMachine p { s.machine p with count := 0 }) ∧
    ((s.params p).limitHolding ≤ d → d < (s.params p).limitLead →
      s.lastEdgeTime - s.lastEventTime < (s.params p).limitRepeat →
      onEdge p d s = claimedBy p (s.params p).holdingPayload s) ∧
    ((s.params p).limitHolding ≤ d → d < (s.params p).limitLead →
      (s.params p).limitRepeat ≤ s.lastEdgeTime - s.lastEventTime →
      onEdge p d s = s.setMachine p { s.machine p with count := 0 }) ∧
    ((s.params p).limitHolding ≤ d → (s.params p).limitLead ≤ d →
      onEdge p d s = s.setMachine p { s.machine p with count := 2 })

/-- 41_protocol_machine.md R117, R118: a data slot before the terminal one. -/
def Obligations.DataSlotStoresBit : Prop :=
  ∀ (p : Proto) (d : Duration) (s : State),
    2 ≤ (s.machine p).count.toNat → (s.machine p).count.toNat < (s.params p).bits + 1 →
    d < (s.params p).limitTimeout →
    onEdge p d s = s.setMachine p
      { count := (s.machine p).count + 1
        data := (s.machine p).data.modify (((s.machine p).count.toNat - 2) / 8)
          fun b => b >>> 1 ||| if (s.params p).limitLogic ≤ d then 0x80#8 else 0x00#8 }

/-- 41_protocol_machine.md R117, R119, R120, R121: the terminal slot. -/
def Obligations.TerminalSlotChecksum : Prop :=
  ∀ (p : Proto) (d : Duration) (s : State) (data : List Byte),
    1 ≤ (s.params p).bits → (s.machine p).count.toNat = (s.params p).bits + 1 → d < (s.params p).limitTimeout →
    data = (s.machine p).data.modify (((s.params p).bits - 1) / 8)
      (fun b => b >>> 1 ||| if (s.params p).limitLogic ≤ d then 0x80#8 else 0x00#8) →
    ((s.params p).checksum.holds data = true → onEdge p d s = claimedBy p data s) ∧
    ((s.params p).checksum.holds data = false → onEdge p d s = s.setMachine p { count := 0, data := data })

/-- 41_protocol_machine.md R121, 44_gate_read.md R182, 45_dispatch.md R201: one machine's edge never touches
another structured machine, nor the hash machine but for the fallback reset of its cursor at a claim, nor the
Edge Clock, nor the configuration. -/
def Obligations.OtherMachinesStayArmed : Prop :=
  ∀ (p q : Proto) (d : Duration) (s t : State), onEdge p d s = t →
    (q ≠ p → t.machine q = s.machine q) ∧ t.hash = s.hash ∧ t.hprev = s.hprev ∧ t.hdone = s.hdone ∧
    t.lastEdgeTime = s.lastEdgeTime ∧ t.response = s.response ∧ SamePorts s t ∧
    (s.pending = false → t.pending = false → t.hcount = s.hcount) ∧
    (s.pending = false → t.pending = true → t.hcount =
      if s.cfg.hashFallbackReset = true ∧ MachineId.hash ∈ s.cfg.machines then 0 else s.hcount)

/-- 41_protocol_machine.md R112, 70_reset_and_hazards.md R274: a machine in `IDLE` ignores a whole train of
durations that no timeout precedes. -/
def Obligations.NothingDecodedWithoutSilence : Prop :=
  ∀ (p : Proto) (ds : List Duration) (s : State), (s.machine p).count = 0 →
    (∀ d ∈ ds, d < (s.params p).limitTimeout) → feed p ds s = s

/-- 41_protocol_machine.md R117 to R121, 20_memory.md R51, R52, R53: the `N_p` durations of the data slots leave
the frame they spell, whatever the buffer held before, and the checksum decides between a claim and `IDLE`. -/
def Obligations.DataSlotsDecodeFrame : Prop :=
  ∀ (p : Proto) (ds : List Duration) (s : State), (s.params p).legal = true → (s.machine p).count = 2 →
    (s.machine p).data.length = (s.params p).bytes → ds.length = (s.params p).bits →
    (∀ d ∈ ds, d < (s.params p).limitTimeout) →
    ((s.params p).checksum.holds (frameOf (s.params p) ds) = true →
      feed p ds s = claimedBy p (frameOf (s.params p) ds) s) ∧
    ((s.params p).checksum.holds (frameOf (s.params p) ds) = false →
      feed p ds s = s.setMachine p { count := 0, data := frameOf (s.params p) ds })

/-! ### The NEC and Panasonic instances -/

/-- 42_nec_panasonic.md R140, R150: the structural parameters of the two instances. -/
def Obligations.InstanceLengths : Prop :=
  (Proto.nec.tag.code = 1 ∧ necDefault.bits = 32 ∧ necDefault.bytes = 4 ∧ necDefault.irLength = 66 ∧
    necDefault.term = 33 ∧ necDefault.done = 34 ∧ necDefault.reqTimeoutCheck = false) ∧
  (Proto.panasonic.tag.code = 2 ∧ panasonicDefault.bits = 48 ∧ panasonicDefault.bytes = 6 ∧
    panasonicDefault.irLength = 98 ∧ panasonicDefault.term = 49 ∧ panasonicDefault.done = 50 ∧
    panasonicDefault.reqTimeoutCheck = false)

/-- 42_nec_panasonic.md R141, R151: the two checksum predicates over any buffer. -/
def Obligations.ChecksumPredicates : Prop :=
  (∀ b0 b1 b2 b3 : Byte,
    (necDefault.checksum.holds [b0, b1, b2, b3] = true ↔ b3 = ~~~ b2) ∧
    (necDefault.checksum.holds [b0, b1, b2, b3] = true ↔ b2 ^^^ b3 = 0xFF)) ∧
  (∀ b0 b1 b2 b3 b4 b5 : Byte,
    panasonicDefault.checksum.holds [b0, b1, b2, b3, b4, b5] = true ↔ b2 ^^^ b3 ^^^ b4 = b5)

/-- 42_nec_panasonic.md R143, R153, 30_encoding.md R82: the result fields of any buffer. -/
def Obligations.ResultExtraction : Prop :=
  (∀ b0 b1 b2 b3 : Byte,
    necDefault.address [b0, b1, b2, b3] = b1 ++ b0 ∧
    necDefault.command [b0, b1, b2, b3] = b2.setWidth 32) ∧
  (∀ b0 b1 b2 b3 b4 b5 : Byte,
    panasonicDefault.address [b0, b1, b2, b3, b4, b5] = b1 ++ b0 ∧
    panasonicDefault.command [b0, b1, b2, b3, b4, b5] = b5 ++ b4 ++ b3 ++ b2)

/-! ### The hash machine -/

/-- 43_hash_decoder.md R162: the ternary comparison at the tolerance 1/3. -/
def Obligations.TernaryComparison : Prop :=
  ∀ (H : HashParams) (prev new : Duration), H.tolNum = 1 → H.tolDen = 3 →
    (3 * new.toNat ≤ 2 * prev.toNat → compareCode H prev new = 0) ∧
    (2 * prev.toNat < 3 * new.toNat → 4 * prev.toNat ≤ 3 * new.toNat → compareCode H prev new = 2) ∧
    (2 * prev.toNat < 3 * new.toNat → 3 * new.toNat < 4 * prev.toNat → compareCode H prev new = 1)

/-- 43_hash_decoder.md R164 to R171: one edge at the hash machine, for every cursor it can take an edge at: under
legal parameters (00_scope.md R9) an open sequence has at most `HASH_MAX_BLOCKS` in its cursor (R170), so that the
pulse's count does not wrap. The fold is written in exact integers (R163). -/
def Obligations.HashEdgeTransitions : Prop :=
  ∀ (d : Duration) (s : State),
    (s.cfg.hash.timeout ≤ d →
      (s.hcount = 0 → onEdgeHash d s = { s with hash := s.cfg.hash.basis, hcount := 1 }) ∧
      (s.hcount = 1 → onEdgeHash d s = s) ∧
      (2 ≤ s.hcount.toNat → onEdgeHash d s = { s with hdone := true, tag := .hash, pending := true })) ∧
    (d < s.cfg.hash.timeout →
      (s.hcount = 0 → onEdgeHash d s = s) ∧
      (s.hcount = 1 → onEdgeHash d s = { s with hprev := d, hcount := 2 }) ∧
      (2 ≤ s.hcount.toNat → s.cfg.hash.legal = true → s.hcount.toNat ≤ s.cfg.hash.maxBlocks → ∃ h : BitVec 32,
        h.toNat = ((s.hash.toNat * s.cfg.hash.prime.toNat) % 2 ^ 32) ^^^
          (compareCode s.cfg.hash s.hprev d).toNat ∧
        (s.hcount.toNat ≠ s.cfg.hash.maxBlocks →
          onEdgeHash d s = { s with hash := h, hprev := d, hcount := s.hcount + 1 }) ∧
        (s.hcount.toNat = s.cfg.hash.maxBlocks →
          onEdgeHash d s = { s with hash := h, hprev := d, hcount := s.hcount + 1,
                                    hdone := true, tag := .hash, pending := true })))

/-- 43_hash_decoder.md R161, R163, R168, R169, R170: the first pulses of an armed machine leave the fold of their
comparison codes from the basis, their number plus one in the cursor, and publish exactly at
`HASH_MAX_BLOCKS`. -/
def Obligations.HashFingerprintOfPulses : Prop :=
  ∀ (first : Duration) (ds : List Duration) (s : State), s.cfg.hash.legal = true →
    s.hcount = 1 → s.hash = s.cfg.hash.basis → s.pending = false → s.hdone = false →
    (∀ d ∈ first :: ds, d < s.cfg.hash.timeout) → ds.length + 1 ≤ s.cfg.hash.maxBlocks →
    (feedHash (first :: ds) s).hcount.toNat = ds.length + 2 ∧
    (feedHash (first :: ds) s).hash = (codesFrom s.cfg.hash first ds).foldl (foldHash s.cfg.hash) s.cfg.hash.basis ∧
    (feedHash (first :: ds) s).hprev = ds.getLastD first ∧
    ((feedHash (first :: ds) s).pending = true ↔ ds.length + 1 = s.cfg.hash.maxBlocks) ∧
    ((feedHash (first :: ds) s).hdone = true ↔ ds.length + 1 = s.cfg.hash.maxBlocks)

/-- 43_hash_decoder.md R175: two pulse trains whose successive ratios fall in the same classes give the same
pair, whatever their absolute durations and whatever else the two states hold. -/
def Obligations.SameRatiosSameFingerprint : Prop :=
  ∀ (d e : Duration) (ds es : List Duration) (s t : State), s.cfg.hash = t.cfg.hash →
    s.hcount = 1 → t.hcount = 1 → s.hash = t.hash → s.hdone = t.hdone →
    (∀ x ∈ d :: ds, x < s.cfg.hash.timeout) → (∀ x ∈ e :: es, x < s.cfg.hash.timeout) →
    codesFrom s.cfg.hash d ds = codesFrom s.cfg.hash e es →
    (feedHash (d :: ds) s).hcount = (feedHash (e :: es) t).hcount ∧
    (feedHash (d :: ds) s).hash = (feedHash (e :: es) t).hash ∧
    (feedHash (d :: ds) s).hdone = (feedHash (e :: es) t).hdone

/-! ### The arbiter -/

/-- 45_dispatch.md R192, 41_protocol_machine.md R124, 43_hash_decoder.md R172: all the timeout phase can do. It
stops at the hash machine's publication, so a machine after HASH in `M` does not expire in that operation. -/
def Obligations.TimeoutPhaseEffect : Prop :=
  ∀ (now : Time) (s : State),
    (s.pending = true → timeoutPhase now s = s) ∧
    (s.pending = false → ∀ before after : List MachineId,
      s.cfg.machines = before ++ MachineId.hash :: after → MachineId.hash ∉ before →
      s.hashDue (s.peekElapsed now) →
      ∃ nec pan : FrameMachine,
        timeoutPhase now s = { s with nec := nec, pan := pan, hdone := true, tag := .hash, pending := true } ∧
        (∀ p, (MachineId.structured p ∈ before ∧ s.staleFrame p (s.peekElapsed now) →
            (timeoutPhase now s).machine p = { s.machine p with count := 0 }) ∧
          (¬ (MachineId.structured p ∈ before ∧ s.staleFrame p (s.peekElapsed now)) →
            (timeoutPhase now s).machine p = s.machine p))) ∧
    (s.pending = false → ¬ s.hashDue (s.peekElapsed now) →
      ∃ nec pan : FrameMachine,
        timeoutPhase now s = { s with nec := nec, pan := pan } ∧
        (∀ p, (s.armed (.structured p) ∧ s.staleFrame p (s.peekElapsed now) →
            (timeoutPhase now s).machine p = { s.machine p with count := 0 }) ∧
          (¬ (s.armed (.structured p) ∧ s.staleFrame p (s.peekElapsed now)) →
            (timeoutPhase now s).machine p = s.machine p)))

/-- 45_dispatch.md R193, R194: the fan-out offers the same duration to the machines in order and stops at the
first claim. -/
def Obligations.FanOutStopsAtFirstClaim : Prop :=
  ∀ (d : Duration) (before after : List MachineId) (m : MachineId) (s : State),
    ((fanOut d before s).pending = true → fanOut d (before ++ m :: after) s = fanOut d before s) ∧
    ((fanOut d before s).pending = false →
      fanOut d (before ++ m :: after) s = fanOut d after (onEdgeOf d m (fanOut d before s)))

/-- 45_dispatch.md R191: a blocked EDGE completes and writes nothing; its response word is zero. -/
def Obligations.BlockedEdgeWritesNothing : Prop :=
  ∀ (now : Time) (s : State), s.pending = true → exec (.edge now) s = .next { s with response := 0 }

/-- 45_dispatch.md R190, 60_exceptions.md R238: an unblocked EDGE: the timeout phase, then either the edge is
dropped because a self-expiry claimed, or the Edge Clock moves and the duration measured from the last edge is
fanned out. -/
def Obligations.UnblockedEdgeOrder : Prop :=
  ∀ (now : Time) (s : State), s.pending = false →
    ((timeoutPhase now s).pending = true →
      exec (.edge now) s = .next { timeoutPhase now s with response := 0 } ∧
      (timeoutPhase now s).lastEdgeTime = s.lastEdgeTime) ∧
    ((timeoutPhase now s).pending = false →
      exec (.edge now) s = .next
        { fanOut (s.peekElapsed now) s.cfg.machines { timeoutPhase now s with lastEdgeTime := now } with
          response := 0 })

/-- 45_dispatch.md R202: in single-protocol mode, whichever the one machine of `M` is, an unblocked EDGE is that
machine's self-expiry and then its one transition on the measured duration. A structured machine whose frame is stale
expires first (41_protocol_machine.md R124); a hash sequence that is due is published and the edge dropped
(43_hash_decoder.md R172). -/
def Obligations.SingleProtocolEdge : Prop :=
  ∀ (now : Time) (s : State), s.pending = false →
    (∀ p, s.cfg.machines = [.structured p] →
      (s.staleFrame p (s.peekElapsed now) →
        exec (.edge now) s = .next
          { onEdge p (s.peekElapsed now)
              { s.setMachine p { s.machine p with count := 0 } with lastEdgeTime := now } with response := 0 }) ∧
      (¬ s.staleFrame p (s.peekElapsed now) →
        exec (.edge now) s = .next
          { onEdge p (s.peekElapsed now) { s with lastEdgeTime := now } with response := 0 })) ∧
    (s.cfg.machines = [.hash] →
      (s.hashDue (s.peekElapsed now) →
        exec (.edge now) s = .next { s with hdone := true, tag := .hash, pending := true, response := 0 }) ∧
      (¬ s.hashDue (s.peekElapsed now) →
        exec (.edge now) s = .next
          { onEdgeHash (s.peekElapsed now) { s with lastEdgeTime := now } with response := 0 }))

/-- 43_hash_decoder.md R166, 45_dispatch.md R190, 70_reset_and_hazards.md R279: a hash sequence that silence has
ended is published by the next EDGE itself, and that edge is dropped. -/
def Obligations.SilenceFoundByEdgeDropsIt : Prop :=
  ∀ (now : Time) (s : State), s.pending = false → s.hashDue (s.peekElapsed now) →
    ∃ t, exec (.edge now) s = .next t ∧ t.pending = true ∧ t.tag = .hash ∧ t.hdone = true ∧
      t.hcount = s.hcount ∧ t.hash = s.hash ∧ t.hprev = s.hprev ∧
      t.lastEdgeTime = s.lastEdgeTime ∧ t.lastEventTime = s.lastEventTime

/-- 10_state.md R20, R25, R28 and log 10: what no EDGE touches. -/
def Obligations.EdgeFrame : Prop :=
  ∀ (now : Time) (s t : State), exec (.edge now) s = .next t →
    SamePorts s t ∧ t.response = 0 ∧
    (t.lastEdgeTime = s.lastEdgeTime ∨ t.lastEdgeTime = now) ∧
    (t.lastEventTime = s.lastEventTime ∨ t.lastEventTime = now) ∧
    (t.tag = s.tag ∨ (s.pending = false ∧ t.pending = true)) ∧
    (s.pending = true → t.pending = true) ∧
    (∀ p, ¬ s.armed (.structured p) → t.machine p = s.machine p) ∧
    (¬ s.armed .hash → t.hcount = s.hcount ∧ t.hash = s.hash ∧ t.hprev = s.hprev ∧ t.hdone = s.hdone)

/-- 10_state.md R25, R26, R30: an EDGE moves the Edge Clock exactly when it is neither blocked nor dropped. -/
def Obligations.EdgeClockMovesUnlessBlocked : Prop :=
  ∀ (now : Time) (s t : State), exec (.edge now) s = .next t →
    (s.pending = true → t.lastEdgeTime = s.lastEdgeTime) ∧
    (s.pending = false → s.hashDue (s.peekElapsed now) → t.lastEdgeTime = s.lastEdgeTime) ∧
    (s.pending = false → ¬ s.hashDue (s.peekElapsed now) → t.lastEdgeTime = now)

/-- 45_dispatch.md R195: CHECK_TIMEOUT, op 0b010, is the timeout phase and answers nothing. -/
def Obligations.CheckTimeoutRunsPhase : Prop :=
  ∀ (now : Time) (s : State),
    decode (requestWord 0b010 now) = .ok (.checkTimeout now) ∧
    exec (.checkTimeout now) s = .next { timeoutPhase now s with response := 0 }

/-- 45_dispatch.md R196: AVAILABLE, op 0b011, is the timeout phase, and answers `pending` in bit 48. -/
def Obligations.AvailableAnswersPending : Prop :=
  ∀ (now : Time) (s : State),
    decode (requestWord 0b011 now) = .ok (.available now) ∧
    exec (.available now) s = .next { timeoutPhase now s with
      response := if (timeoutPhase now s).pending then 0x1000000000000#52 else 0 }

/-- 45_dispatch.md R197: RECEIVING, op 0b100, answers 1 exactly when nothing is pending and an armed machine is in
progress and not stale; it writes nothing beyond the timeout phase. -/
def Obligations.ReceivingAnswersInProgress : Prop :=
  ∀ (now : Time) (s u : State), timeoutPhase now s = u →
    decode (requestWord 0b100 now) = .ok (.receiving now) ∧
    ((u.pending = false ∧
        ((∃ p, u.armed (.structured p) ∧ 1 ≤ (u.machine p).count.toNat ∧
            (u.machine p).count.toNat ≤ (u.params p).term ∧
            u.peekElapsed now < (u.params p).limitTimeout) ∨
          (u.armed .hash ∧ 1 ≤ u.hcount.toNat ∧ u.hdone = false ∧ u.peekElapsed now < u.cfg.hash.timeout)) →
      exec (.receiving now) s = .next { u with response := 0x1000000000000#52 }) ∧
    (¬ (u.pending = false ∧
        ((∃ p, u.armed (.structured p) ∧ 1 ≤ (u.machine p).count.toNat ∧
            (u.machine p).count.toNat ≤ (u.params p).term ∧
            u.peekElapsed now < (u.params p).limitTimeout) ∨
          (u.armed .hash ∧ 1 ≤ u.hcount.toNat ∧ u.hdone = false ∧ u.peekElapsed now < u.cfg.hash.timeout))) →
      exec (.receiving now) s = .next { u with response := 0 }))

/-- 20_memory.md R56: a query repeated with the same `now` gives the same answer and changes nothing more. -/
def Obligations.QueriesAreIdempotent : Prop :=
  ∀ (now : Time) (s t : State),
    (exec (.available now) s = .next t → exec (.available now) t = .next t) ∧
    (exec (.receiving now) s = .next t → exec (.receiving now) t = .next t) ∧
    (exec (.checkTimeout now) s = .next t → exec (.checkTimeout now) t = .next t)

/-- 45_dispatch.md R198: NOP, op 0b000, writes nothing and answers a zero word. -/
def Obligations.NopWritesNothing : Prop :=
  ∀ (now : Time) (s : State),
    decode (requestWord 0b000 now) = .ok (.nop now) ∧ exec (.nop now) s = .next { s with response := 0 }

/-- 45_dispatch.md R199, 10_state.md R39: RESET, op 0b111, completes from every state, ignores `now`, and leaves the
reset value in every element; under the default configuration that is `State.reset`. The requests still to come are
the model's own field (log 1). -/
def Obligations.ResetWritesEveryElement : Prop :=
  (∀ now : Time, decode (requestWord 0b111 now) = .ok (.reset now)) ∧
  (∀ (now : Time) (s : State), exec (.reset now) s = .next
    { cfg := s.cfg
      lastEdgeTime := s.cfg.resetLastEdge
      lastEventTime := s.cfg.resetLastEvent
      tag := .none
      pending := false
      nec := { count := 0, data := List.replicate s.cfg.nec.bytes 0 }
      pan := { count := 0, data := List.replicate s.cfg.panasonic.bytes 0 }
      hcount := 0
      hash := 0
      hprev := 0
      hdone := false
      requests := s.requests
      response := 0 }) ∧
  (∀ (now : Time) (s : State), s.cfg = Config.default →
    exec (.reset now) s = .next { State.reset with requests := s.requests })

/-- 70_reset_and_hazards.md R261: right after RESET, AVAILABLE and RECEIVING answer 0 and READ answers NONE,
under every configuration and whatever `now`. -/
def Obligations.FirstAnswersAfterReset : Prop :=
  ∀ (r now : Time) (s t : State), exec (.reset r) s = .next t →
    exec (.available now) t = .next t ∧ exec (.receiving now) t = .next t ∧ exec (.read now) t = .next t ∧
    t.response = 0

/-! ### READ -/

/-- 44_gate_read.md R182: READ of a structured owner. -/
def Obligations.ReadReturnsStructuredFrame : Prop :=
  ∀ (p : Proto) (now : Time) (s : State), s.pending = true → s.tag = p.tag →
    exec (.read now) s = .next
      { s.setMachine p { s.machine p with count := 0 } with
        pending := false
        response := 1#1 ++ p.tag.code ++ 0#1 ++ (s.params p).address (s.machine p).data ++
          (s.params p).command (s.machine p).data }

/-- 44_gate_read.md R183, 43_hash_decoder.md R174: READ of the hash machine. -/
def Obligations.ReadReturnsFingerprint : Prop :=
  ∀ (now : Time) (s : State), s.pending = true → s.tag = .hash →
    exec (.read now) s = .next
      { s with hcount := 0, hdone := false, pending := false,
               response := 1#1 ++ 3#2 ++ 0#1 ++ (s.hcount - 1).setWidth 16 ++ s.hash }

/-- 44_gate_read.md R181: READ with nothing claimed after the timeout phase answers a zero word and writes
nothing more. -/
def Obligations.ReadWithNothingClaimed : Prop :=
  ∀ (now : Time) (s : State), (timeoutPhase now s).pending = false →
    exec (.read now) s = .next { timeoutPhase now s with response := 0 }

/-- 44_gate_read.md R180, 43_hash_decoder.md R172, R174: READ finds a sequence that silence has ended and
consumes it in the same operation. -/
def Obligations.ReadFindsSilenceAndConsumes : Prop :=
  ∀ (now : Time) (s : State), s.pending = false → s.hashDue (s.peekElapsed now) →
    ∃ t, exec (.read now) s = .next t ∧
      t.response = 1#1 ++ 3#2 ++ 0#1 ++ (s.hcount - 1).setWidth 16 ++ s.hash ∧
      t.hcount = 0 ∧ t.hdone = false ∧ t.pending = false ∧ t.tag = .hash ∧ t.hash = s.hash ∧
      t.lastEdgeTime = s.lastEdgeTime

/-- 44_gate_read.md R184, R180, 43_hash_decoder.md R172: in every state that satisfies the invariants, READ returns
data exactly when a claim is pending or its own timeout phase publishes a sequence that silence has ended; and with
`HASH_FALLBACK_RESET` a READ that returned data, followed by a READ, is followed by no data, whatever the second
`now`. -/
def Obligations.ReadOnce : Prop :=
  ∀ (now later : Time) (s t : State), s.Inv → exec (.read now) s = .next t →
    (t.response.getLsbD 51 = true ↔ s.pending = true ∨ s.hashDue (s.peekElapsed now)) ∧
    (s.cfg.hashFallbackReset = true → t.response.getLsbD 51 = true →
      ∃ u, exec (.read later) t = .next u ∧ u.response = 0)

/-- 44_gate_read.md R187: a structured result that READ returns comes from a buffer whose checksum holds. -/
def Obligations.ReadResultHasChecksum : Prop :=
  ∀ (now : Time) (s t : State), s.Inv → exec (.read now) s = .next t → t.response.getLsbD 51 = true →
    (∃ p, (s.params p).checksum.holds (s.machine p).data = true ∧
      t.response = 1#1 ++ p.tag.code ++ 0#1 ++ (s.params p).address (s.machine p).data ++
        (s.params p).command (s.machine p).data) ∨
    t.response = 1#1 ++ 3#2 ++ 0#1 ++ (s.hcount - 1).setWidth 16 ++ s.hash

/-- 10_state.md R25, R26, 20_memory.md R56: a poll-side operation other than RESET never writes the Edge Clock,
the last event time, a buffer byte, the running hash, the last pulse, or the ports but for the response. -/
def Obligations.PollSideFrame : Prop :=
  ∀ (now : Time) (i : Instr) (s t : State),
    (i = .checkTimeout now ∨ i = .available now ∨ i = .receiving now ∨ i = .read now) → exec i s = .next t →
    t.lastEdgeTime = s.lastEdgeTime ∧ t.lastEventTime = s.lastEventTime ∧ t.hash = s.hash ∧ t.hprev = s.hprev ∧
    (∀ p, (t.machine p).data = (s.machine p).data) ∧ SamePorts s t

/-! ### Invariants and whole-machine rules -/

/-- 10_state.md R38: the reset state satisfies the invariants. -/
def Obligations.ResetSatisfiesInvariants : Prop := State.reset.Inv

/-- 10_state.md R38: every step keeps the invariants, from every state that satisfies them. -/
def Obligations.StepKeepsInvariants : Prop := ∀ s t : State, s.Inv → step s = .next t → t.Inv

/-- 10_state.md R38 (I2), 45_dispatch.md R200: a claim is pending exactly when one machine, and only one, is
claimed. -/
def Obligations.AtMostOneMachineClaimed : Prop :=
  ∀ s : State, s.Inv →
    (s.pending = true ↔ ∃ m, s.armed m ∧ s.claimed m = true ∧ s.tag = m.tag ∧
      ∀ n, s.armed n → s.claimed n = true → n = m)

/-- 10_state.md R28: no operation writes a limit register or any other parameter. -/
def Obligations.ConfigurationIsReadOnly : Prop :=
  ∀ (i : Instr) (s t : State), exec i s = .next t → t.cfg = s.cfg

/-- 10_state.md R38 (I5), 41_protocol_machine.md R125: an EDGE leaves or increases a cursor, or sets it to 0, or
from 0 to 1; for a machine without self-expiry (log 17). -/
def Obligations.CursorOnlyGrowsInFrame : Prop :=
  ∀ (p : Proto) (now : Time) (s t : State), s.Inv → s.armed (.structured p) →
    (s.params p).reqTimeoutCheck = false → exec (.edge now) s = .next t →
    (s.machine p).count.toNat ≤ (t.machine p).count.toNat ∨ (t.machine p).count = 0

/-- 41_protocol_machine.md R126, 70_reset_and_hazards.md R273: while a claim is unread, no operation but READ and
RESET changes anything. -/
def Obligations.ClaimBlocksUntilRead : Prop :=
  ∀ (i : Instr) (s t : State), s.pending = true → (∀ now, i ≠ .read now) → (∀ now, i ≠ .reset now) →
    exec i s = .next t → t = { s with response := t.response }

/-- 10_state.md R26, 43_hash_decoder.md R171: but for RESET, only an EDGE at which a structured machine claims
writes `lastEventTime`, and it writes that edge's `now`. -/
def Obligations.LastEventOnlyByStructuredClaim : Prop :=
  ∀ (i : Instr) (s t : State), (∀ now, i ≠ .reset now) → exec i s = .next t →
    t.lastEventTime ≠ s.lastEventTime →
    ∃ (now : Time) (p : Proto), i = .edge now ∧ t.lastEventTime = now ∧ t.lastEdgeTime = now ∧
      t.pending = true ∧ t.tag = p.tag ∧ s.pending = false

/-! ### Whole frames -/

/-- 30_encoding.md R76, 41_protocol_machine.md R110 to R121, 44_gate_read.md R181, R182: with one structured
machine armed, from `IDLE`, the `N_p + 2` edges of a frame and a READ return exactly the frame's address and command
if its checksum holds, and nothing otherwise; the machine is in `IDLE` afterwards either way. The first edge comes at any
time that a timeout has been reached, however long the silence before it (40_edge_clock.md R101, R102). -/
def Obligations.FrameIsReadBack : Prop :=
  ∀ (p : Proto) (first : Time) (lead : Duration) (ds : List Duration) (now : Time) (s : State),
    s.Inv → s.cfg.machines = [.structured p] → s.pending = false → (s.machine p).count = 0 →
    (s.params p).limitTimeout ≤ s.peekElapsed first →
    (s.params p).limitLead ≤ lead → lead < (s.params p).limitTimeout →
    ds.length = (s.params p).bits → (∀ d ∈ ds, d < (s.params p).limitTimeout) →
    ∃ t, runOps ((first :: edgeTimes first (lead :: ds)).map Instr.edge ++ [Instr.read now]) s = .next t ∧
      t.pending = false ∧ (t.machine p).count = 0 ∧ (t.machine p).data = frameOf (s.params p) ds ∧
      t.response =
        if (s.params p).checksum.holds (frameOf (s.params p) ds) = true then
          1#1 ++ p.tag.code ++ 0#1 ++ (s.params p).address (frameOf (s.params p) ds) ++
            (s.params p).command (frameOf (s.params p) ds)
        else 0

/-- 30_encoding.md R79, 41_protocol_machine.md R114, R115: with one structured machine armed, from `IDLE`, the two
edges of a holding signal and a READ return the holding payload's result inside the repeat window, and nothing outside
it. The first edge comes at any time that a timeout has been reached, however long the silence before it. -/
def Obligations.HoldingSignalIsReadBack : Prop :=
  ∀ (p : Proto) (first : Time) (hold : Duration) (now : Time) (s : State),
    s.Inv → s.cfg.machines = [.structured p] → s.pending = false → (s.machine p).count = 0 →
    (s.params p).limitTimeout ≤ s.peekElapsed first →
    (s.params p).limitHolding ≤ hold → hold < (s.params p).limitLead →
    ∃ t, runOps ((first :: edgeTimes first [hold]).map Instr.edge ++ [Instr.read now]) s = .next t ∧
      t.pending = false ∧ (t.machine p).count = 0 ∧
      t.response =
        if first + hold.setWidth 32 - s.lastEventTime < (s.params p).limitRepeat then
          1#1 ++ p.tag.code ++ 0#1 ++ (s.params p).address (s.params p).holdingPayload ++
            (s.params p).command (s.params p).holdingPayload
        else 0
end

