-- ==== Sys2Proof/Laws/State.lean ====
section
/-! SUPPORT. One lemma per field per update of the state, each true by unfolding the update once, so that no later
proof unfolds a record update. -/

namespace Sys2Proof.Machine

theorem params_eq (s : State) (p : Proto) : s.params p = s.cfg.params p := rfl
@[simp] theorem machine_nec (s : State) : s.machine .nec = s.nec := rfl
@[simp] theorem machine_panasonic (s : State) : s.machine .panasonic = s.pan := rfl
@[simp] theorem params_nec (cfg : Config) : cfg.params .nec = cfg.nec := rfl
@[simp] theorem params_panasonic (cfg : Config) : cfg.params .panasonic = cfg.panasonic := rfl

/-! ### `State.setMachine` -/

@[simp] theorem setMachine_same (s : State) (p : Proto) (m : FrameMachine) : (s.setMachine p m).machine p = m := by
  cases p <;> rfl
theorem setMachine_other (s : State) {p q : Proto} (m : FrameMachine) (h : q ≠ p) :
    (s.setMachine p m).machine q = s.machine q := by
  cases p <;> cases q <;> first | rfl | exact absurd rfl h
@[simp] theorem setMachine_self (s : State) (p : Proto) : s.setMachine p (s.machine p) = s := by cases p <;> rfl
@[simp] theorem setMachine_setMachine (s : State) (p : Proto) (m n : FrameMachine) :
    (s.setMachine p m).setMachine p n = s.setMachine p n := by cases p <;> rfl
@[simp] theorem setMachine_cfg (s : State) (p : Proto) (m : FrameMachine) : (s.setMachine p m).cfg = s.cfg := by
  cases p <;> rfl
@[simp] theorem setMachine_lastEdgeTime (s : State) (p : Proto) (m : FrameMachine) : (s.setMachine p m).lastEdgeTime = s.lastEdgeTime := by
  cases p <;> rfl
@[simp] theorem setMachine_lastEventTime (s : State) (p : Proto) (m : FrameMachine) : (s.setMachine p m).lastEventTime = s.lastEventTime := by
  cases p <;> rfl
@[simp] theorem setMachine_tag (s : State) (p : Proto) (m : FrameMachine) : (s.setMachine p m).tag = s.tag := by
  cases p <;> rfl
@[simp] theorem setMachine_pending (s : State) (p : Proto) (m : FrameMachine) : (s.setMachine p m).pending = s.pending := by
  cases p <;> rfl
@[simp] theorem setMachine_hcount (s : State) (p : Proto) (m : FrameMachine) : (s.setMachine p m).hcount = s.hcount := by
  cases p <;> rfl
@[simp] theorem setMachine_hash (s : State) (p : Proto) (m : FrameMachine) : (s.setMachine p m).hash = s.hash := by
  cases p <;> rfl
@[simp] theorem setMachine_hprev (s : State) (p : Proto) (m : FrameMachine) : (s.setMachine p m).hprev = s.hprev := by
  cases p <;> rfl
@[simp] theorem setMachine_hdone (s : State) (p : Proto) (m : FrameMachine) : (s.setMachine p m).hdone = s.hdone := by
  cases p <;> rfl
@[simp] theorem setMachine_requests (s : State) (p : Proto) (m : FrameMachine) : (s.setMachine p m).requests = s.requests := by
  cases p <;> rfl
@[simp] theorem setMachine_response (s : State) (p : Proto) (m : FrameMachine) : (s.setMachine p m).response = s.response := by
  cases p <;> rfl
@[simp] theorem setMachine_params (s : State) (p q : Proto) (m : FrameMachine) :
    (s.setMachine p m).params q = s.params q := by cases p <;> rfl

/-! ### `claim` -/

@[simp] theorem claim_cfg (p : Proto) (s : State) : (claim p s).cfg = s.cfg := by cases p <;> rfl
@[simp] theorem claim_lastEdgeTime (p : Proto) (s : State) : (claim p s).lastEdgeTime = s.lastEdgeTime := by cases p <;> rfl
@[simp] theorem claim_lastEventTime (p : Proto) (s : State) : (claim p s).lastEventTime = s.lastEdgeTime := by cases p <;> rfl
@[simp] theorem claim_tag (p : Proto) (s : State) : (claim p s).tag = p.tag := by cases p <;> rfl
@[simp] theorem claim_pending (p : Proto) (s : State) : (claim p s).pending = true := by cases p <;> rfl
@[simp] theorem claim_hash (p : Proto) (s : State) : (claim p s).hash = s.hash := by cases p <;> rfl
@[simp] theorem claim_hprev (p : Proto) (s : State) : (claim p s).hprev = s.hprev := by cases p <;> rfl
@[simp] theorem claim_hdone (p : Proto) (s : State) : (claim p s).hdone = s.hdone := by cases p <;> rfl
@[simp] theorem claim_requests (p : Proto) (s : State) : (claim p s).requests = s.requests := by cases p <;> rfl
@[simp] theorem claim_response (p : Proto) (s : State) : (claim p s).response = s.response := by cases p <;> rfl
theorem claim_hcount (p : Proto) (s : State) : (claim p s).hcount =
    if s.cfg.hashFallbackReset && s.cfg.machines.contains .hash then 0 else s.hcount := rfl
@[simp] theorem claim_params (p q : Proto) (s : State) : (claim p s).params q = s.params q := by cases p <;> rfl
@[simp] theorem claim_machine_same (p : Proto) (s : State) : (claim p s).machine p =
    { s.machine p with count := BitVec.ofNat 8 (s.params p).done } := by cases p <;> rfl
theorem claim_machine_other {p q : Proto} (s : State) (h : q ≠ p) : (claim p s).machine q = s.machine q := by
  cases p <;> cases q <;> first | rfl | exact absurd rfl h

/-! ### `publishHash` -/

@[simp] theorem publishHash_cfg (s : State) : (publishHash s).cfg = s.cfg := rfl
@[simp] theorem publishHash_lastEdgeTime (s : State) : (publishHash s).lastEdgeTime = s.lastEdgeTime := rfl
@[simp] theorem publishHash_lastEventTime (s : State) : (publishHash s).lastEventTime = s.lastEventTime := rfl
@[simp] theorem publishHash_tag (s : State) : (publishHash s).tag = .hash := rfl
@[simp] theorem publishHash_pending (s : State) : (publishHash s).pending = true := rfl
@[simp] theorem publishHash_nec (s : State) : (publishHash s).nec = s.nec := rfl
@[simp] theorem publishHash_pan (s : State) : (publishHash s).pan = s.pan := rfl
@[simp] theorem publishHash_hcount (s : State) : (publishHash s).hcount = s.hcount := rfl
@[simp] theorem publishHash_hash (s : State) : (publishHash s).hash = s.hash := rfl
@[simp] theorem publishHash_hprev (s : State) : (publishHash s).hprev = s.hprev := rfl
@[simp] theorem publishHash_hdone (s : State) : (publishHash s).hdone = true := rfl
@[simp] theorem publishHash_requests (s : State) : (publishHash s).requests = s.requests := rfl
@[simp] theorem publishHash_response (s : State) : (publishHash s).response = s.response := rfl
@[simp] theorem publishHash_params (s : State) (p : Proto) : (publishHash s).params p = s.params p := rfl
@[simp] theorem publishHash_machine (s : State) (p : Proto) : (publishHash s).machine p = s.machine p := by cases p <;> rfl

/-! ### `releaseHash` -/

@[simp] theorem releaseHash_cfg (s : State) : (releaseHash s).cfg = s.cfg := rfl
@[simp] theorem releaseHash_lastEdgeTime (s : State) : (releaseHash s).lastEdgeTime = s.lastEdgeTime := rfl
@[simp] theorem releaseHash_lastEventTime (s : State) : (releaseHash s).lastEventTime = s.lastEventTime := rfl
@[simp] theorem releaseHash_tag (s : State) : (releaseHash s).tag = s.tag := rfl
@[simp] theorem releaseHash_pending (s : State) : (releaseHash s).pending = false := rfl
@[simp] theorem releaseHash_nec (s : State) : (releaseHash s).nec = s.nec := rfl
@[simp] theorem releaseHash_pan (s : State) : (releaseHash s).pan = s.pan := rfl
@[simp] theorem releaseHash_hcount (s : State) : (releaseHash s).hcount = 0 := rfl
@[simp] theorem releaseHash_hash (s : State) : (releaseHash s).hash = s.hash := rfl
@[simp] theorem releaseHash_hprev (s : State) : (releaseHash s).hprev = s.hprev := rfl
@[simp] theorem releaseHash_hdone (s : State) : (releaseHash s).hdone = false := rfl
@[simp] theorem releaseHash_requests (s : State) : (releaseHash s).requests = s.requests := rfl
@[simp] theorem releaseHash_response (s : State) : (releaseHash s).response = s.response := rfl
@[simp] theorem releaseHash_params (s : State) (p : Proto) : (releaseHash s).params p = s.params p := rfl
@[simp] theorem releaseHash_machine (s : State) (p : Proto) : (releaseHash s).machine p = s.machine p := by cases p <;> rfl

/-! ### `answer` -/

@[simp] theorem answer_cfg (s : State) (r : Response) : (s.answer r).cfg = s.cfg := rfl
@[simp] theorem answer_lastEdgeTime (s : State) (r : Response) : (s.answer r).lastEdgeTime = s.lastEdgeTime := rfl
@[simp] theorem answer_lastEventTime (s : State) (r : Response) : (s.answer r).lastEventTime = s.lastEventTime := rfl
@[simp] theorem answer_tag (s : State) (r : Response) : (s.answer r).tag = s.tag := rfl
@[simp] theorem answer_pending (s : State) (r : Response) : (s.answer r).pending = s.pending := rfl
@[simp] theorem answer_nec (s : State) (r : Response) : (s.answer r).nec = s.nec := rfl
@[simp] theorem answer_pan (s : State) (r : Response) : (s.answer r).pan = s.pan := rfl
@[simp] theorem answer_hcount (s : State) (r : Response) : (s.answer r).hcount = s.hcount := rfl
@[simp] theorem answer_hash (s : State) (r : Response) : (s.answer r).hash = s.hash := rfl
@[simp] theorem answer_hprev (s : State) (r : Response) : (s.answer r).hprev = s.hprev := rfl
@[simp] theorem answer_hdone (s : State) (r : Response) : (s.answer r).hdone = s.hdone := rfl
@[simp] theorem answer_requests (s : State) (r : Response) : (s.answer r).requests = s.requests := rfl
@[simp] theorem answer_response (s : State) (r : Response) : (s.answer r).response = r.word := rfl
@[simp] theorem answer_params (s : State) (r : Response) (p : Proto) : (s.answer r).params p = s.params p := rfl
@[simp] theorem answer_machine (s : State) (r : Response) (p : Proto) : (s.answer r).machine p = s.machine p := by cases p <;> rfl

/-! ### `takeRequest` -/

@[simp] theorem takeRequest_cfg (s : State) : (s.takeRequest).cfg = s.cfg := rfl
@[simp] theorem takeRequest_lastEdgeTime (s : State) : (s.takeRequest).lastEdgeTime = s.lastEdgeTime := rfl
@[simp] theorem takeRequest_lastEventTime (s : State) : (s.takeRequest).lastEventTime = s.lastEventTime := rfl
@[simp] theorem takeRequest_tag (s : State) : (s.takeRequest).tag = s.tag := rfl
@[simp] theorem takeRequest_pending (s : State) : (s.takeRequest).pending = s.pending := rfl
@[simp] theorem takeRequest_nec (s : State) : (s.takeRequest).nec = s.nec := rfl
@[simp] theorem takeRequest_pan (s : State) : (s.takeRequest).pan = s.pan := rfl
@[simp] theorem takeRequest_hcount (s : State) : (s.takeRequest).hcount = s.hcount := rfl
@[simp] theorem takeRequest_hash (s : State) : (s.takeRequest).hash = s.hash := rfl
@[simp] theorem takeRequest_hprev (s : State) : (s.takeRequest).hprev = s.hprev := rfl
@[simp] theorem takeRequest_hdone (s : State) : (s.takeRequest).hdone = s.hdone := rfl
@[simp] theorem takeRequest_requests (s : State) : (s.takeRequest).requests = s.requests.tail := rfl
@[simp] theorem takeRequest_response (s : State) : (s.takeRequest).response = s.response := rfl
@[simp] theorem takeRequest_params (s : State) (p : Proto) : (s.takeRequest).params p = s.params p := rfl
@[simp] theorem takeRequest_machine (s : State) (p : Proto) : (s.takeRequest).machine p = s.machine p := by cases p <;> rfl

/-! ### `nextDuration_state` -/

@[simp] theorem nextDuration_state_cfg (now : Time) (s : State) : ((nextDuration now s).2).cfg = s.cfg := rfl
@[simp] theorem nextDuration_state_lastEdgeTime (now : Time) (s : State) : ((nextDuration now s).2).lastEdgeTime = now := rfl
@[simp] theorem nextDuration_state_lastEventTime (now : Time) (s : State) : ((nextDuration now s).2).lastEventTime = s.lastEventTime := rfl
@[simp] theorem nextDuration_state_tag (now : Time) (s : State) : ((nextDuration now s).2).tag = s.tag := rfl
@[simp] theorem nextDuration_state_pending (now : Time) (s : State) : ((nextDuration now s).2).pending = s.pending := rfl
@[simp] theorem nextDuration_state_nec (now : Time) (s : State) : ((nextDuration now s).2).nec = s.nec := rfl
@[simp] theorem nextDuration_state_pan (now : Time) (s : State) : ((nextDuration now s).2).pan = s.pan := rfl
@[simp] theorem nextDuration_state_hcount (now : Time) (s : State) : ((nextDuration now s).2).hcount = s.hcount := rfl
@[simp] theorem nextDuration_state_hash (now : Time) (s : State) : ((nextDuration now s).2).hash = s.hash := rfl
@[simp] theorem nextDuration_state_hprev (now : Time) (s : State) : ((nextDuration now s).2).hprev = s.hprev := rfl
@[simp] theorem nextDuration_state_hdone (now : Time) (s : State) : ((nextDuration now s).2).hdone = s.hdone := rfl
@[simp] theorem nextDuration_state_requests (now : Time) (s : State) : ((nextDuration now s).2).requests = s.requests := rfl
@[simp] theorem nextDuration_state_response (now : Time) (s : State) : ((nextDuration now s).2).response = s.response := rfl
@[simp] theorem nextDuration_state_params (now : Time) (s : State) (p : Proto) : ((nextDuration now s).2).params p = s.params p := rfl
@[simp] theorem nextDuration_state_machine (now : Time) (s : State) (p : Proto) : ((nextDuration now s).2).machine p = s.machine p := by cases p <;> rfl

/-! ### `resetBlock` -/

@[simp] theorem resetBlock_cfg (s : State) : (resetBlock s).cfg = s.cfg := rfl
@[simp] theorem resetBlock_lastEdgeTime (s : State) : (resetBlock s).lastEdgeTime = s.cfg.resetLastEdge := rfl
@[simp] theorem resetBlock_lastEventTime (s : State) : (resetBlock s).lastEventTime = s.cfg.resetLastEvent := rfl
@[simp] theorem resetBlock_tag (s : State) : (resetBlock s).tag = .none := rfl
@[simp] theorem resetBlock_pending (s : State) : (resetBlock s).pending = false := rfl
@[simp] theorem resetBlock_nec (s : State) : (resetBlock s).nec = FrameMachine.zero s.cfg.nec := rfl
@[simp] theorem resetBlock_pan (s : State) : (resetBlock s).pan = FrameMachine.zero s.cfg.panasonic := rfl
@[simp] theorem resetBlock_hcount (s : State) : (resetBlock s).hcount = 0 := rfl
@[simp] theorem resetBlock_hash (s : State) : (resetBlock s).hash = 0 := rfl
@[simp] theorem resetBlock_hprev (s : State) : (resetBlock s).hprev = 0 := rfl
@[simp] theorem resetBlock_hdone (s : State) : (resetBlock s).hdone = false := rfl
@[simp] theorem resetBlock_requests (s : State) : (resetBlock s).requests = s.requests := rfl
@[simp] theorem resetBlock_response (s : State) : (resetBlock s).response = s.response := rfl
@[simp] theorem resetBlock_params (s : State) (p : Proto) : (resetBlock s).params p = s.params p := rfl
@[simp] theorem resetBlock_machine (s : State) (p : Proto) : (resetBlock s).machine p = FrameMachine.zero (s.params p) := by
  cases p <;> rfl

/-! ### `releaseStructured` -/

@[simp] theorem releaseStructured_cfg (p : Proto) (s : State) : (releaseStructured p s).cfg = s.cfg := by cases p <;> rfl
@[simp] theorem releaseStructured_lastEdgeTime (p : Proto) (s : State) : (releaseStructured p s).lastEdgeTime = s.lastEdgeTime := by cases p <;> rfl
@[simp] theorem releaseStructured_lastEventTime (p : Proto) (s : State) : (releaseStructured p s).lastEventTime = s.lastEventTime := by cases p <;> rfl
@[simp] theorem releaseStructured_tag (p : Proto) (s : State) : (releaseStructured p s).tag = s.tag := by cases p <;> rfl
@[simp] theorem releaseStructured_pending (p : Proto) (s : State) : (releaseStructured p s).pending = false := by cases p <;> rfl
@[simp] theorem releaseStructured_hcount (p : Proto) (s : State) : (releaseStructured p s).hcount = s.hcount := by cases p <;> rfl
@[simp] theorem releaseStructured_hash (p : Proto) (s : State) : (releaseStructured p s).hash = s.hash := by cases p <;> rfl
@[simp] theorem releaseStructured_hprev (p : Proto) (s : State) : (releaseStructured p s).hprev = s.hprev := by cases p <;> rfl
@[simp] theorem releaseStructured_hdone (p : Proto) (s : State) : (releaseStructured p s).hdone = s.hdone := by cases p <;> rfl
@[simp] theorem releaseStructured_requests (p : Proto) (s : State) : (releaseStructured p s).requests = s.requests := by cases p <;> rfl
@[simp] theorem releaseStructured_response (p : Proto) (s : State) : (releaseStructured p s).response = s.response := by cases p <;> rfl
@[simp] theorem releaseStructured_params (p q : Proto) (s : State) :
    (releaseStructured p s).params q = s.params q := by cases p <;> rfl
@[simp] theorem releaseStructured_machine_same (p : Proto) (s : State) :
    (releaseStructured p s).machine p = { s.machine p with count := 0 } := by cases p <;> rfl
theorem releaseStructured_machine_other {p q : Proto} (s : State) (h : q ≠ p) :
    (releaseStructured p s).machine q = s.machine q := by
  cases p <;> cases q <;> first | rfl | exact absurd rfl h

/-! ### `discardFrame` -/

@[simp] theorem discardFrame_count (k : DiscardClass) (m : FrameMachine) : (discardFrame k m).count = 0 := rfl
@[simp] theorem discardFrame_data (k : DiscardClass) (m : FrameMachine) : (discardFrame k m).data = m.data := rfl

end Sys2Proof.Machine
end

