-- ==== Sys2Proof/Laws/Parameters.lean ====
section
/-! SUPPORT. The derived lengths of a parameter set and what legality says of it; the fields of request words. -/

namespace Sys2Proof

/-- `TERM_p = N_p + 1` (spec/00_scope.md R7). -/
theorem term_eq (P : ProtoParams) : P.term = P.bits + 1 := by
  simp only [ProtoParams.term, ProtoParams.irLength]; omega

/-- `DONE_p = N_p + 2` (00_scope.md R7). -/
theorem done_eq (P : ProtoParams) : P.done = P.bits + 2 := by simp [ProtoParams.done, term_eq]

/-- A legal parameter set: the limits in order, a whole number of bytes, a payload that passes the checksum. -/
theorem legal_limits {P : ProtoParams} (h : P.legal = true) :
    0 < P.limitLogic ∧ P.limitLogic < P.limitHolding ∧ P.limitHolding ≤ P.limitLead ∧
      P.limitLead < P.limitTimeout := by
  simp only [ProtoParams.legal, ProtoParams.limitsLegal, Bool.and_eq_true, decide_eq_true_eq] at h
  tauto

theorem legal_bits {P : ProtoParams} (h : P.legal = true) : 0 < P.bits ∧ P.bits % 8 = 0 ∧ P.bits ≤ 248 := by
  simp only [ProtoParams.legal, ProtoParams.bitsLegal, Bool.and_eq_true, decide_eq_true_eq] at h
  tauto

theorem legal_bytes {P : ProtoParams} (h : P.legal = true) : P.bits = 8 * P.bytes := by
  have := legal_bits h
  simp only [ProtoParams.bytes]; omega

theorem legal_holding {P : ProtoParams} (h : P.legal = true) (hd : P.limitHolding ≠ P.limitLead) :
    P.holdingPayload.length = P.bytes ∧ P.checksum.holds P.holdingPayload = true := by
  simp only [ProtoParams.legal, ProtoParams.holdingLegal, Bool.and_eq_true, Bool.or_eq_true,
    decide_eq_true_eq] at h
  tauto

theorem legal_hash {H : HashParams} (h : H.legal = true) : 0 < H.timeout ∧ 2 ≤ H.maxBlocks ∧ H.maxBlocks ≤ 254 := by
  simp only [HashParams.legal, Bool.and_eq_true, decide_eq_true_eq] at h
  tauto

/-- Every armed machine of a legal configuration has legal parameters. -/
theorem legal_machine {cfg : Config} (h : cfg.legal = true) {m : MachineId} (hm : m ∈ cfg.machines) :
    cfg.machineLegal m = true := by
  simp only [Config.legal, Bool.and_eq_true, List.all_eq_true] at h
  exact h.2 m hm

/-- The tag names the machine. -/
theorem MachineId.tag_injective {m n : MachineId} (h : m.tag = n.tag) : m = n := by
  cases m with
  | structured p => cases n with
    | structured q => cases p <;> cases q <;> first | rfl | simp [MachineId.tag, Proto.tag] at h
    | hash => cases p <;> simp [MachineId.tag, Proto.tag] at h
  | hash => cases n with
    | structured q => cases q <;> simp [MachineId.tag, Proto.tag] at h
    | hash => rfl

/-- The bits of a request word (30_encoding.md R71). -/
theorem requestWord_getLsbD (op : BitVec 3) (now : Time) (i : Nat) :
    (requestWord op now).getLsbD i = if i < 32 then now.getLsbD i else op.getLsbD (i - 32) := BitVec.getLsbD_append

/-- The op code field of a written word (30_encoding.md R71). -/
theorem requestOp_requestWord (op : BitVec 3) (now : Time) : requestOp (requestWord op now) = op := by
  apply BitVec.eq_of_getLsbD_eq
  intro i hi
  simp [requestOp, requestWord_getLsbD, hi]

/-- The `now` field of a written word (30_encoding.md R71). -/
theorem requestNow_requestWord (op : BitVec 3) (now : Time) : requestNow (requestWord op now) = now := by
  apply BitVec.eq_of_getLsbD_eq
  intro i hi
  simp [requestNow, requestWord_getLsbD, hi]

/-- A word is its two fields (30_encoding.md R71). -/
theorem requestWord_fields (w : RequestWord) : requestWord (requestOp w) (requestNow w) = w := by
  apply BitVec.eq_of_getLsbD_eq
  intro i hi
  rw [requestWord_getLsbD]
  simp only [requestOp, requestNow, BitVec.getLsbD_extractLsb']
  by_cases h : i < 32
  · simp [h]
  · simp [h, show i - 32 < 3 by omega, show 32 + (i - 32) = i by omega]

end Sys2Proof
end

