-- ==== Sys2Proof/Laws/Ops.lean ====
section
/-! SUPPORT. What the shared operations can do: the Edge Clock, the duration classes, and the inversion lemma of each
machine's transition and of its self-expiry. -/

namespace Sys2Proof.Machine

/-- `sat16` is the minimum with 65535 (spec/00_scope.md R11). -/
theorem sat16_toNat (e : Time) : (sat16 e).toNat = min 65535 e.toNat := by
  unfold sat16
  split <;> rename_i h
  · have : (65535 : Duration).toNat = 65535 := by decide
    omega
  · rw [BitVec.toNat_setWidth]; omega

@[simp] theorem Response.word_empty : Response.empty.word = 0 := by decide

theorem Response.word_ofFlag (b : Bool) : (Response.ofFlag b).word = if b then 0x1000000000000#52 else 0 := by
  cases b <;> decide

/-! ### The duration classes (30_encoding.md R75), slot by slot -/

theorem classify_timeout {P : ProtoParams} {c : Nat} {d : Duration} (h : P.limitTimeout ≤ d) :
    classify P c d = .timeout := by simp [classify, h]

theorem classify_ignored {P : ProtoParams} {d : Duration} (h : d < P.limitTimeout) : classify P 0 d = .ignored := by
  simp [classify, BitVec.not_le.mpr h]

theorem classify_invalidLead {P : ProtoParams} {d : Duration} (h : d < P.limitTimeout) (h1 : d < P.limitHolding) :
    classify P 1 d = .invalidLead := by simp [classify, BitVec.not_le.mpr h, h1]

theorem classify_hold {P : ProtoParams} {d : Duration} (h : d < P.limitTimeout) (h1 : P.limitHolding ≤ d)
    (h2 : d < P.limitLead) : classify P 1 d = .hold := by
  simp [classify, BitVec.not_le.mpr h, BitVec.not_lt.mpr h1, h2]

theorem classify_lead {P : ProtoParams} {d : Duration} (h : d < P.limitTimeout) (h1 : P.limitHolding ≤ d)
    (h2 : P.limitLead ≤ d) : classify P 1 d = .lead := by
  simp [classify, BitVec.not_le.mpr h, BitVec.not_lt.mpr h1, BitVec.not_lt.mpr h2]

theorem classify_data {P : ProtoParams} {c : Nat} {d : Duration} (hc : 2 ≤ c) (h : d < P.limitTimeout) :
    classify P c d = if P.limitLogic ≤ d then .one else .zero := by
  unfold classify
  rw [if_neg (BitVec.not_le.mpr h), if_neg (by omega), if_neg (by omega)]
  by_cases hl : P.limitLogic ≤ d
  · simp [hl, BitVec.not_lt.mpr hl]
  · simp [hl, BitVec.not_le.mp hl]

/-- In a data slot an edge stores one bit (41_protocol_machine.md R117). -/
theorem onEdge_data {p : Proto} {d : Duration} {s : State} (h2 : 2 ≤ (s.machine p).count.toNat)
    (ht : (s.machine p).count.toNat ≤ (s.params p).term) (hd : d < (s.params p).limitTimeout) :
    onEdge p d s = onBit p (decide ((s.params p).limitLogic ≤ d)) s := by
  unfold onEdge
  rw [if_neg (by omega), classify_data h2 hd]
  by_cases h : (s.params p).limitLogic ≤ d <;> simp [h]

/-- A claim with a new buffer, element by element (41_protocol_machine.md R121). -/
theorem claim_setMachine (p : Proto) (data : List Byte) (s : State) :
    claim p (s.setMachine p { s.machine p with data := data }) =
      { s.setMachine p { count := BitVec.ofNat 8 (s.params p).done, data := data } with
        lastEventTime := s.lastEdgeTime, tag := p.tag, pending := true
        hcount := if s.cfg.hashFallbackReset && s.cfg.machines.contains .hash then 0 else s.hcount } := by
  cases p <;> rfl

/-- The bit store writes one byte in place. -/
@[simp] theorem storeBit_length (one : Bool) (c : Nat) (data : List Byte) :
    (storeBit one c data).length = data.length := by simp [storeBit]

/-- `m` is what an edge without a claim may leave in the registers of machine `p`: the buffer keeps its size, and the
cursor is 0, stays, or goes one slot on, up to `TERM_p` (41_protocol_machine.md R123, R125). -/
structure Unclaimed (p : Proto) (s : State) (m : FrameMachine) : Prop where
  size : m.data.length = (s.machine p).data.length
  cursor : m.count = 0 ∨ m.count = (s.machine p).count ∨
    (m.count.toNat = (s.machine p).count.toNat + 1 ∧ (s.machine p).count.toNat < (s.params p).term)

/-- `data` is what a claim may leave in the buffer of machine `p`: a frame that passes the checksum, or the holding
payload of a protocol that has a holding signal (41_protocol_machine.md R114, R119). -/
def Claimable (p : Proto) (s : State) (data : List Byte) : Prop :=
  (data = (s.params p).holdingPayload ∧ (s.params p).limitHolding ≠ (s.params p).limitLead) ∨
    (data.length = (s.machine p).data.length ∧ (s.params p).checksum.holds data = true)

/-- What one structured machine's edge can do: it writes its own registers and claims nothing, or it claims. -/
def EdgeOutcome (p : Proto) (s t : State) : Prop :=
  (∃ m, t = s.setMachine p m ∧ Unclaimed p s m) ∨
    (∃ data, t = claim p (s.setMachine p { s.machine p with data := data }) ∧ Claimable p s data)

theorem outcome_self (p : Proto) (s : State) : EdgeOutcome p s s :=
  .inl ⟨s.machine p, by simp, rfl, .inr (.inl rfl)⟩

theorem outcome_discard (p : Proto) (k : DiscardClass) (s : State) :
    EdgeOutcome p s (s.setMachine p (discardFrame k (s.machine p))) := .inl ⟨_, rfl, rfl, .inl rfl⟩

/-- A step of the cursor below `TERM_p` does not wrap in 8 bits. -/
theorem cursor_succ {P : ProtoParams} (hl : P.legal = true) {c : BitVec 8} (hc : c.toNat < P.term) :
    (c + 1).toNat = c.toNat + 1 := by
  have := legal_bits hl
  rw [term_eq] at hc
  rw [BitVec.toNat_add, show (1 : BitVec 8).toNat = 1 from rfl]; omega

theorem onTimeout_cases (p : Proto) (s : State) : EdgeOutcome p s (onTimeout p s) := by
  unfold onTimeout
  split <;> rename_i h
  · exact .inl ⟨_, rfl, rfl, .inr (.inr ⟨by simp [h], by rw [h, term_eq]; omega⟩)⟩
  · exact outcome_discard ..

theorem onHold_cases (p : Proto) (s : State) (h : (s.params p).limitHolding ≠ (s.params p).limitLead) :
    EdgeOutcome p s (onHold p s) := by
  unfold onHold
  split
  · exact .inr ⟨_, rfl, .inl ⟨rfl, h⟩⟩
  · exact outcome_discard ..

theorem onBit_cases (p : Proto) (one : Bool) (s : State) (hl : (s.params p).legal = true) :
    EdgeOutcome p s (onBit p one s) := by
  simp only [onBit, setMachine_same, setMachine_setMachine]
  split <;> rename_i h1
  · exact .inl ⟨_, rfl, by simp, .inr (.inr ⟨cursor_succ hl h1, h1⟩)⟩
  · split <;> rename_i h2
    · exact .inr ⟨_, rfl, .inr ⟨by simp, h2⟩⟩
    · exact .inl ⟨_, rfl, by simp, .inl rfl⟩

/-- The inversion lemma of a structured machine's edge (41_protocol_machine.md R123). -/
theorem onEdge_cases (p : Proto) (d : Duration) (s : State) (hl : (s.params p).legal = true) :
    EdgeOutcome p s (onEdge p d s) := by
  unfold onEdge
  split
  · exact outcome_self p s
  · unfold classify
    split_ifs with h1 h2 h3 h4 h5 h6 <;> simp only
    · exact onTimeout_cases p s
    · exact outcome_self p s
    · exact outcome_discard ..
    · refine onHold_cases p s fun he => ?_
      rw [he] at h4
      exact h4 h5
    · have := legal_bits hl
      exact .inl ⟨_, rfl, rfl, .inr (.inr ⟨by simp [h3], by rw [h3, term_eq]; omega⟩)⟩
    · exact onBit_cases p false s hl
    · exact onBit_cases p true s hl

/-- The inversion lemma of a structured machine's self-expiry (41_protocol_machine.md R124). -/
theorem checkTimeoutStructured_cases (p : Proto) (e16 : Duration) (s : State) :
    checkTimeoutStructured p e16 s = s ∨
      checkTimeoutStructured p e16 s = s.setMachine p { s.machine p with count := 0 } := by
  unfold checkTimeoutStructured
  split
  · exact .inr rfl
  · exact .inl rfl

/-- The inversion lemma of the hash machine's edge (43_hash_decoder.md R164 to R170): it writes its three registers,
or takes a pulse and publishes, or publishes what it holds. -/
theorem onEdgeHash_cases (d : Duration) (s : State) (hl : s.cfg.hash.legal = true)
    (ho : s.hcount.toNat ≤ s.cfg.hash.maxBlocks) :
    (∃ hcount hash hprev, onEdgeHash d s = { s with hcount := hcount, hash := hash, hprev := hprev } ∧
      hcount.toNat ≤ s.cfg.hash.maxBlocks) ∨
    (∃ hcount hash hprev,
      onEdgeHash d s = publishHash { s with hcount := hcount, hash := hash, hprev := hprev } ∧
      2 ≤ hcount.toNat ∧ hcount.toNat ≤ s.cfg.hash.maxBlocks + 1) := by
  obtain ⟨-, h2, h254⟩ := legal_hash hl
  unfold onEdgeHash
  split_ifs with h1 h3 h4 h5 h6
  · exact .inl ⟨_, _, _, rfl, by simp; omega⟩
  · exact .inl ⟨s.hcount, s.hash, s.hprev, rfl, ho⟩
  · exact .inr ⟨s.hcount, s.hash, s.hprev, rfl, by omega, by omega⟩
  · exact .inl ⟨s.hcount, s.hash, s.hprev, rfl, ho⟩
  · exact .inl ⟨_, _, _, rfl, by simpa using h2⟩
  · have h8 : (s.hcount + 1).toNat = s.hcount.toNat + 1 := by
      rw [BitVec.toNat_add]; simp; omega
    have h9 : (s.hcount + 1 - 1).toNat = s.hcount.toNat := by simp
    simp only [laterPulse, h9]
    split <;> rename_i h
    · exact .inr ⟨_, _, _, rfl, by omega, by omega⟩
    · exact .inl ⟨_, _, _, rfl, by omega⟩

/-- The inversion lemma of the hash machine's self-expiry (43_hash_decoder.md R172). -/
theorem checkTimeoutHash_cases (e16 : Duration) (s : State) :
    checkTimeoutHash e16 s = s ∨ (checkTimeoutHash e16 s = publishHash s ∧ 2 ≤ s.hcount.toNat) := by
  unfold checkTimeoutHash
  split <;> rename_i h
  · exact .inr ⟨rfl, h.1⟩
  · exact .inl rfl

/-! ### What an edge can write, under any parameters -/

/-- One shift moves each bit down by one and puts the new one on top (20_memory.md R51, 41_protocol_machine.md
R117). -/
theorem shiftBit_getLsbD (one : Bool) (b : Byte) {r : Nat} (h : r < 8) :
    (shiftBit one b).getLsbD r = if r = 7 then one else b.getLsbD (r + 1) := by
  have top : (if one = true then (0x80 : Byte) else 0x00).getLsbD r = (decide (r = 7) && one) := by
    cases one <;> revert r <;> decide
  rw [shiftBit, BitVec.getLsbD_or, BitVec.getLsbD_ushiftRight, top]
  by_cases h7 : r = 7
  · simp [h7]
  · simp [h7, Nat.add_comm]

/-- A structured machine's edge writes its own registers, and may then claim: nothing else, whatever the parameters
(41_protocol_machine.md R121, R123). -/
theorem onEdge_shape (p : Proto) (d : Duration) (s : State) :
    (∃ m, onEdge p d s = s.setMachine p m) ∨ ∃ m, onEdge p d s = claim p (s.setMachine p m) := by
  have bit : ∀ one, (∃ m, onBit p one s = s.setMachine p m) ∨ ∃ m, onBit p one s = claim p (s.setMachine p m) := by
    intro one
    simp only [onBit, setMachine_same, setMachine_setMachine]
    split
    · exact .inl ⟨_, rfl⟩
    · split
      · exact .inr ⟨_, rfl⟩
      · exact .inl ⟨_, rfl⟩
  unfold onEdge
  split
  · exact .inl ⟨s.machine p, by simp⟩
  · split
    · unfold onTimeout; split <;> exact .inl ⟨_, rfl⟩
    · exact .inl ⟨s.machine p, by simp⟩
    · exact .inl ⟨_, rfl⟩
    · unfold onHold; split
      · exact .inr ⟨_, rfl⟩
      · exact .inl ⟨_, rfl⟩
    · exact .inl ⟨_, rfl⟩
    · exact bit false
    · exact bit true

/-- The hash machine's edge writes `hcount`, `hash` and `hprev`, and may then publish: nothing else, whatever the
parameters (43_hash_decoder.md R164 to R171). -/
theorem onEdgeHash_shape (d : Duration) (s : State) :
    (∃ hcount hash hprev, onEdgeHash d s = { s with hcount := hcount, hash := hash, hprev := hprev }) ∨
    ∃ hcount hash hprev,
      onEdgeHash d s = publishHash { s with hcount := hcount, hash := hash, hprev := hprev } := by
  unfold onEdgeHash
  split_ifs
  · exact .inl ⟨_, _, _, rfl⟩
  · exact .inl ⟨s.hcount, s.hash, s.hprev, rfl⟩
  · exact .inr ⟨s.hcount, s.hash, s.hprev, rfl⟩
  · exact .inl ⟨s.hcount, s.hash, s.hprev, rfl⟩
  · exact .inl ⟨_, _, _, rfl⟩
  · simp only [laterPulse]; split
    · exact .inr ⟨_, _, _, rfl⟩
    · exact .inl ⟨_, _, _, rfl⟩

end Sys2Proof.Machine
end

