-- ==== Sys2Proof/Laws/Arbiter.lean ====
section
/-! SUPPORT. The arbiter's two loops: what they keep, proved once by induction over the machines, and what they leave
alone. -/

namespace Sys2Proof.Machine

/-- A property that every self-expiry keeps, while nothing is pending, is kept by the timeout phase
(spec/45_dispatch.md R192). -/
theorem timeoutLoop_keeps {R : State → Prop} {e16 : Duration} {ms : List MachineId}
    (h : ∀ m t, m ∈ ms → R t → t.pending = false → R (checkTimeoutOf e16 m t)) :
    ∀ s, R s → R (timeoutLoop e16 ms s) := by
  induction ms with
  | nil => intro s hs; exact hs
  | cons m ms ih =>
    intro s hs
    unfold timeoutLoop
    split
    · exact hs
    · rename_i hp
      refine ih (fun n t hn => h n t (List.mem_cons_of_mem _ hn)) _ ?_
      split
      · exact h m s List.mem_cons_self hs (by simpa using hp)
      · exact hs

/-- A property that every machine's edge keeps, while nothing is pending, is kept by the fan-out
(45_dispatch.md R193, R194). -/
theorem fanOut_keeps {R : State → Prop} {d : Duration} {ms : List MachineId}
    (h : ∀ m t, m ∈ ms → R t → t.pending = false → R (onEdgeOf d m t)) :
    ∀ s, R s → R (fanOut d ms s) := by
  induction ms with
  | nil => intro s hs; exact hs
  | cons m ms ih =>
    intro s hs
    unfold fanOut
    split
    · exact hs
    · rename_i hp
      exact ih (fun n t hn => h n t (List.mem_cons_of_mem _ hn)) _ (h m s List.mem_cons_self hs (by simpa using hp))

/-- Neither loop runs while a claim is pending (45_dispatch.md R191, R192). -/
theorem timeoutPhase_pending {now : Time} {s : State} (h : s.pending = true) : timeoutPhase now s = s := by
  unfold timeoutPhase
  cases s.cfg.machines <;> simp [timeoutLoop, h]

theorem fanOut_pending {d : Duration} {ms : List MachineId} {s : State} (h : s.pending = true) :
    fanOut d ms s = s := by
  cases ms <;> simp [fanOut, h]

/-- What no self-expiry touches: the configuration, the two times, the hash sequence, the buffers and the ports
(41_protocol_machine.md R124, 43_hash_decoder.md R172). -/
structure KeptByExpiry (s t : State) : Prop where
  cfg : t.cfg = s.cfg
  lastEdgeTime : t.lastEdgeTime = s.lastEdgeTime
  lastEventTime : t.lastEventTime = s.lastEventTime
  hcount : t.hcount = s.hcount
  hash : t.hash = s.hash
  hprev : t.hprev = s.hprev
  data : ∀ p, (t.machine p).data = (s.machine p).data
  requests : t.requests = s.requests
  response : t.response = s.response

theorem KeptByExpiry.refl (s : State) : KeptByExpiry s s :=
  ⟨rfl, rfl, rfl, rfl, rfl, rfl, fun _ => rfl, rfl, rfl⟩

theorem KeptByExpiry.trans {s t u : State} (a : KeptByExpiry s t) (b : KeptByExpiry t u) : KeptByExpiry s u :=
  ⟨b.cfg.trans a.cfg, b.lastEdgeTime.trans a.lastEdgeTime, b.lastEventTime.trans a.lastEventTime,
    b.hcount.trans a.hcount, b.hash.trans a.hash, b.hprev.trans a.hprev, fun p => (b.data p).trans (a.data p),
    b.requests.trans a.requests, b.response.trans a.response⟩

theorem KeptByExpiry.setCount (s : State) (p : Proto) (c : BitVec 8) :
    KeptByExpiry s (s.setMachine p { s.machine p with count := c }) := by
  refine ⟨by simp, by simp, by simp, by simp, by simp, by simp, fun q => ?_, by simp, by simp⟩
  by_cases h : q = p
  · subst h; simp
  · rw [setMachine_other s _ h]

theorem checkTimeoutOf_kept (e16 : Duration) (m : MachineId) (s : State) :
    KeptByExpiry s (checkTimeoutOf e16 m s) := by
  cases m with
  | structured p =>
    rcases checkTimeoutStructured_cases p e16 s with h | h <;> simp only [checkTimeoutOf, h]
    · exact .refl s
    · exact .setCount s p 0
  | hash =>
    rcases checkTimeoutHash_cases e16 s with h | ⟨h, -⟩ <;> simp only [checkTimeoutOf, h]
    · exact .refl s
    · exact ⟨rfl, rfl, rfl, rfl, rfl, rfl, fun p => by simp, rfl, rfl⟩

/-- What the timeout phase leaves alone. -/
theorem timeoutPhase_kept (now : Time) (s : State) : KeptByExpiry s (timeoutPhase now s) :=
  timeoutLoop_keeps (R := KeptByExpiry s) (fun m _ _ hs _ => hs.trans (checkTimeoutOf_kept _ m _)) s (.refl s)

/-- The elapsed time is the same before and after the timeout phase (40_edge_clock.md R103). -/
theorem timeoutPhase_peekElapsed (now : Time) (s : State) :
    (timeoutPhase now s).peekElapsed now = s.peekElapsed now := by
  simp [State.peekElapsed, State.elapsed, (timeoutPhase_kept now s).lastEdgeTime]

/-- The timeout phase over a list cut in two: the second part runs where the first has claimed nothing
(45_dispatch.md R192). -/
theorem timeoutLoop_append (e16 : Duration) (before after : List MachineId) (s : State) :
    timeoutLoop e16 (before ++ after) s =
      if (timeoutLoop e16 before s).pending then timeoutLoop e16 before s
      else timeoutLoop e16 after (timeoutLoop e16 before s) := by
  induction before generalizing s with
  | nil =>
    show timeoutLoop e16 after s = if s.pending then s else timeoutLoop e16 after s
    split <;> rename_i h
    · cases after <;> simp [timeoutLoop, h]
    · rfl
  | cons m before ih =>
    by_cases h : s.pending = true
    · simp [timeoutLoop, h]
    · simp only [List.cons_append, timeoutLoop, h]; simpa using ih _

/-- The three ways an EDGE can go: blocked, dropped because a self-expiry claimed, or dispatched (45_dispatch.md
R190, 60_exceptions.md R238). -/
theorem edgeEffect_cases (now : Time) (s : State) :
    (s.pending = true ∧ edgeEffect now s = s) ∨
    (s.pending = false ∧ (timeoutPhase now s).pending = true ∧ edgeEffect now s = timeoutPhase now s) ∨
    (s.pending = false ∧ (timeoutPhase now s).pending = false ∧
      edgeEffect now s = dispatchEdge now (timeoutPhase now s)) := by
  unfold edgeEffect
  by_cases h : s.pending = true
  · simp [h]
  · by_cases h2 : (timeoutPhase now s).pending = true <;> simp [h, h2]

end Sys2Proof.Machine
end

