-- ==== Sys2Proof/Laws/Invariant.lean ====
section
/-! SUPPORT. The invariants of spec/10_state.md R38 as a computed check, so that a concrete state can be shown to
satisfy them. -/

namespace Sys2Proof.Machine

/-- The clauses of `State.Inv` about one structured machine. -/
def State.frameCheck (s : State) (p : Proto) : Bool :=
  decide ((s.machine p).count.toNat ≤ (s.params p).done) &&
    decide ((s.machine p).data.length = (s.params p).bytes) &&
    (!s.claimed (.structured p) || (s.params p).checksum.holds (s.machine p).data)

/-- The clauses of `State.Inv` about the hash machine. -/
def State.hashCheck (s : State) : Bool :=
  decide (s.hcount.toNat ≤ s.cfg.hash.maxBlocks + 1) &&
    (!s.hdone || decide (2 ≤ s.hcount.toNat)) &&
    (s.hdone || decide (s.hcount.toNat ≤ s.cfg.hash.maxBlocks)) &&
    (!(s.pending && decide (s.tag ≠ .hash) && s.cfg.hashFallbackReset) || decide (s.hcount = 0))

/-- The clauses of `State.Inv` about one armed machine and the claim. -/
def State.machineCheck (s : State) (m : MachineId) : Bool :=
  (s.claimed m == (s.pending && decide (s.tag = m.tag))) &&
    match m with
    | .structured p => s.frameCheck p
    | .hash => s.hashCheck

/-- The whole of `State.Inv`, computed. -/
def State.invCheck (s : State) : Bool :=
  s.cfg.legal && s.cfg.machines.all s.machineCheck &&
    (!s.pending || s.cfg.machines.any fun m => decide (s.tag = m.tag))

/-- A state that passes the check satisfies the invariants. -/
theorem inv_of_check {s : State} (h : s.invCheck = true) : s.Inv := by
  simp only [State.invCheck, Bool.and_eq_true, List.all_eq_true] at h
  obtain ⟨⟨hl, hm⟩, ho⟩ := h
  have frame : ∀ p, s.armed (.structured p) → s.frameCheck p = true := fun p ha => by
    have := hm _ ha; simp only [State.machineCheck, Bool.and_eq_true] at this; exact this.2
  have hash : s.armed .hash → s.hashCheck = true := fun ha => by
    have := hm _ ha; simp only [State.machineCheck, Bool.and_eq_true] at this; exact this.2
  simp only [State.frameCheck, Bool.and_eq_true, decide_eq_true_eq] at frame
  simp only [State.hashCheck, Bool.and_eq_true, decide_eq_true_eq] at hash
  refine ⟨hl, fun p ha => (frame p ha).1.1, fun ha => (hash ha).1.1.1, fun p ha => (frame p ha).1.2, fun m ha => ?_,
    fun hp => ?_, fun p ha hc => ?_, fun ha hd => ?_, fun ha hd => ?_, fun hp ht hf ha => ?_⟩
  · have := hm m ha
    simp only [State.machineCheck, Bool.and_eq_true, beq_iff_eq] at this
    rw [this.1]; simp
  · simpa [hp, State.armed] using ho
  · have := (frame p ha).2; simpa [hc] using this
  · have := (hash ha).1.1.2; simpa [hd] using this
  · have := (hash ha).1.2; simpa [hd] using this
  · have := (hash ha).2; simpa [hp, ht, hf] using this

end Sys2Proof.Machine
end

