-- ==== Sys2Proof/Laws/PerInstr.lean ====
section
/-! SUPPORT. Statements about every operation as syntax, one lemma per constructor. -/

namespace Sys2Proof.Laws

/-- The request word of an operation carries its op code in bits 34:32 and its `now` in bits 31:0
(spec/30_encoding.md R71), and is well-formed (R74). -/
def RequestFields.Statement (i : Instr) : Prop :=
  requestOp (encode i) = i.opCode ∧ requestNow (encode i) = i.now ∧ RequestWord.wellFormed (encode i) = true

/-- A word with an op code other than 0b110 is well-formed (30_encoding.md R74). -/
theorem wellFormed_requestWord {op : BitVec 3} (now : Time) (h : op ≠ 0b110#3) :
    RequestWord.wellFormed (requestWord op now) = true := by
  have : (requestWord op now).extractLsb' 32 3 = op := requestOp_requestWord op now
  simp [RequestWord.wellFormed, this, h]

theorem RequestFields.nop (now : Time) : RequestFields.Statement (.nop now) :=
  ⟨requestOp_requestWord _ _, requestNow_requestWord _ _, wellFormed_requestWord now (by simp [Instr.opCode])⟩
theorem RequestFields.edge (now : Time) : RequestFields.Statement (.edge now) :=
  ⟨requestOp_requestWord _ _, requestNow_requestWord _ _, wellFormed_requestWord now (by simp [Instr.opCode])⟩
theorem RequestFields.checkTimeout (now : Time) : RequestFields.Statement (.checkTimeout now) :=
  ⟨requestOp_requestWord _ _, requestNow_requestWord _ _, wellFormed_requestWord now (by simp [Instr.opCode])⟩
theorem RequestFields.available (now : Time) : RequestFields.Statement (.available now) :=
  ⟨requestOp_requestWord _ _, requestNow_requestWord _ _, wellFormed_requestWord now (by simp [Instr.opCode])⟩
theorem RequestFields.receiving (now : Time) : RequestFields.Statement (.receiving now) :=
  ⟨requestOp_requestWord _ _, requestNow_requestWord _ _, wellFormed_requestWord now (by simp [Instr.opCode])⟩
theorem RequestFields.read (now : Time) : RequestFields.Statement (.read now) :=
  ⟨requestOp_requestWord _ _, requestNow_requestWord _ _, wellFormed_requestWord now (by simp [Instr.opCode])⟩
theorem RequestFields.reset (now : Time) : RequestFields.Statement (.reset now) :=
  ⟨requestOp_requestWord _ _, requestNow_requestWord _ _, wellFormed_requestWord now (by simp [Instr.opCode])⟩

end Sys2Proof.Laws
end

