-- ==== Sys2Proof/Tests/Slice0.lean ====
section
/-! SUPPORT. Tests. Expected values are the spec's own: spec/95_test_vectors.md (the vector's id stands in the
docstring), the worked examples of the rules, or words written from the field table of 30_encoding.md R71. The second
half shows, for each statement with hypotheses, a state that meets them all; where the spec has a vector for that case,
the vector's result stands beside them. -/

namespace Sys2Proof.Tests

open Sys2Proof.Machine

/-! ### Small states -/

/-- The reset state with the machines `M` armed. -/
def fresh (M : List MachineId) : State := { State.reset with cfg := { Config.default with machines := M } }

/-- Only the NEC machine is armed. -/
def necOnly : State := fresh [.structured .nec]

/-- Only the hash machine is armed. -/
def hashOnly : State := fresh [.hash]

/-- `s` with the NEC machine's registers set. -/
def necAt (count : BitVec 8) (data : List Byte) (s : State) : State := { s with nec := ⟨count, data⟩ }

/-- `s` with the Edge Clock at `t`. -/
def clockAt (t : Time) (s : State) : State := { s with lastEdgeTime := t }

/-- `s` with the hash machine's cursor, last pulse and running hash set. -/
def pulsesAt (hcount : BitVec 8) (hprev : Duration) (hash : BitVec 32) (s : State) : State :=
  { s with hcount := hcount, hprev := hprev, hash := hash }

/-- The state `exec` answers; `s` itself if it answers none. -/
def after (i : Instr) (s : State) : State :=
  match exec i s with
  | .next t => t
  | _ => s

/-- The state `step` answers; `s` itself if it answers none. -/
def stepped (s : State) : State :=
  match step s with
  | .next t => t
  | _ => s

/-- NEC claimed with the frame of 42_nec_panasonic.md R182's example (RD2). -/
def necClaimed : State :=
  { necAt 34 [0x22, 0x22, 0x02, 0xFD] State.reset with tag := .nec, pending := true, lastEdgeTime := 163000 }

/-- The hash machine claimed with six pulses (RD4). -/
def hashClaimed : State :=
  { pulsesAt 7 1690 0xED0E573B State.reset with tag := .hash, pending := true, hdone := true }

/-- Six pulses taken, and silence since 116870 (RD5, `M = [HASH]`). -/
def hashWaiting : State := clockAt 116870 (pulsesAt 7 1690 0xED0E573B hashOnly)

/-- The nominal NEC durations of the bytes, bit 0 first (30_encoding.md R84). -/
def necDurations (bytes : List Byte) : List Duration :=
  bytes.flatMap fun b => (List.range 8).map fun r => if b.getLsbD r then 2250 else 1125

/-- Every duration of the list is below `x`, computed. -/
theorem below_of_all {ds : List Duration} {x : Duration} (h : (ds.all fun d => decide (d < x)) = true) :
    ∀ d ∈ ds, d < x := by simpa using h

/-! ### Words, written from the field table of R71 (`op`, then `now`) -/

theorem test_decode_nop : decode 0b000_00000000000000000000000000000101#35 = .ok (.nop 5) := by decide
theorem test_decode_edge : decode 0b001_00000000000000011000011010100000#35 = .ok (.edge 100000) := by decide
theorem test_decode_checkTimeout :
    decode 0b010_00000000000000100011000111111110#35 = .ok (.checkTimeout 143870) := by decide
theorem test_decode_available :
    decode 0b011_00000000000000101000010010001000#35 = .ok (.available 165000) := by decide
theorem test_decode_receiving :
    decode 0b100_00000000000000011111101111010000#35 = .ok (.receiving 130000) := by decide
theorem test_decode_read : decode 0b101_00000000000000101001100000010000#35 = .ok (.read 170000) := by decide
theorem test_decode_reset : decode 0b111_00000000000000000011000000111001#35 = .ok (.reset 12345) := by decide

/-- EN10 to EN15: response words. -/
theorem test_response_words :
    Response.empty.word = 0x0000000000000 ∧ (Response.ofFlag true).word = 0x1000000000000 ∧
    (Response.mk true .nec false 0x2222 2).word = 0xA222200000002 ∧
    (Response.mk true .nec false 0xFFFF 0).word = 0xAFFFF00000000 ∧
    (Response.mk true .panasonic false 0x2002 0x8D3D00B0).word = 0xC20028D3D00B0 ∧
    (Response.mk true .hash false 6 0xED0E573B).word = 0xE0006ED0E573B := by decide

/-- The host's table words, and the first step after reset (45_dispatch.md R190's example). -/
theorem test_table_word :
    decodeTableWord 40 0x1000186A0 = some (.edge 100000) ∧ decodeTableWord 40 0x600000000 = none ∧
    (stepped (State.reset.withFetchWord 40 0x1000186A0)).nec.count = 1 ∧
    (stepped (State.reset.withFetchWord 40 0x1000186A0)).lastEdgeTime = 100000 ∧
    (stepped (State.reset.withFetchWord 40 0x1000186A0)).requests = [] := by decide

/-! ### Each check refuses an ill-formed term -/

/-- R74. -/
theorem test_wf_requestWord :
    RequestWord.wellFormed 0x600000000 = false ∧ RequestWord.wellFormed 0x700000000 = true := by decide

/-- R8 (a): each of the four comparisons. -/
theorem test_wf_limits :
    { necDefault with limitLogic := 0 }.limitsLegal = false ∧
    { necDefault with limitLogic := 6750 }.limitsLegal = false ∧
    { necDefault with limitHolding := 12376 }.limitsLegal = false ∧
    { necDefault with limitTimeout := 12375 }.limitsLegal = false ∧ necDefault.limitsLegal = true := by decide

/-- R8 (b). -/
theorem test_wf_bits :
    { necDefault with bits := 0 }.bitsLegal = false ∧ { necDefault with bits := 12 }.bitsLegal = false ∧
    { necDefault with bits := 256 }.bitsLegal = false ∧ { necDefault with bits := 248 }.bitsLegal = true := by decide

/-- R8 (c), log 6: a short payload, and one that fails the checksum. -/
theorem test_wf_holding :
    { necDefault with holdingPayload := [0xFF, 0xFF, 0x00] }.holdingLegal = false ∧
    { necDefault with holdingPayload := [0xFF, 0xFF, 0x00, 0x00] }.holdingLegal = false ∧
    panasonicDefault.holdingLegal = true := by decide

/-- Log 6: a byte outside the buffer, and results wider than the response. -/
theorem test_wf_layout :
    { necDefault with checksum := .complement 2 4 }.layoutLegal = false ∧
    { necDefault with addressBytes := [4] }.layoutLegal = false ∧
    { necDefault with addressBytes := [0, 1, 2] }.layoutLegal = false ∧
    { panasonicDefault with commandBytes := [1, 2, 3, 4, 5] }.layoutLegal = false := by decide

/-- R9, log 9. -/
theorem test_wf_hash :
    { hashDefault with timeout := 0 }.legal = false ∧ { hashDefault with maxBlocks := 1 }.legal = false ∧
    { hashDefault with maxBlocks := 255 }.legal = false ∧ { hashDefault with tolDen := 0 }.legal = false ∧
    { hashDefault with tolNum := 4 }.legal = false ∧ hashDefault.legal = true := by decide

/-- R6, R8: no machine, a machine twice, an armed machine with illegal parameters. -/
theorem test_wf_config :
    { Config.default with machines := [] }.legal = false ∧
    { Config.default with machines := [.hash, .hash] }.legal = false ∧
    { Config.default with nec := { necDefault with bits := 0 } }.legal = false ∧ Config.default.legal = true := by
  decide

/-! ### One step of each operation -/

/-- AR7. -/
theorem test_nop : exec (.nop 5) necClaimed = .next { necClaimed with response := 0 } := rfl

/-- AR2: NEC claims at its terminal edge; the machines after it in `M` are not offered that edge. -/
theorem test_edge_claim :
    let s : State := { pulsesAt 33 1125 1 (necAt 33 [0x22, 0x22, 0x02, 0xFA] (clockAt 160750 State.reset)) with
      pan := ⟨33, [0, 0, 0, 0, 0, 0]⟩ }
    let t := after (.edge 163000) s
    t.nec = ⟨34, [0x22, 0x22, 0x02, 0xFD]⟩ ∧ t.tag = .nec ∧ t.pending = true ∧ t.hcount = 0 ∧ t.pan.count = 33 ∧
      t.hash = 1 ∧ t.lastEdgeTime = 163000 ∧ t.lastEventTime = 163000 := by decide

/-- Section 2.5: the edge that finds the silence publishes and is itself dropped. -/
theorem test_edge_dropped :
    let t := after (.edge 200000) (clockAt 103000 (pulsesAt 3 2000 0x050C5D1D hashOnly))
    t.hdone = true ∧ t.tag = .hash ∧ t.hcount = 3 ∧ t.lastEdgeTime = 103000 := by decide

/-- AR5: the hash sequence is published; NEC does not expire. -/
theorem test_checkTimeout :
    let s := necAt 5 [0, 0, 0, 0] (clockAt 118000 (pulsesAt 5 500 9 (fresh [.structured .nec, .hash])))
    let t := after (.checkTimeout 145000) s
    t.tag = .hash ∧ t.pending = true ∧ t.nec.count = 5 ∧ (after (.checkTimeout 144999) s).pending = false := by decide

/-- R196's example. -/
theorem test_available :
    (after (.available 143869) hashWaiting).response = 0 ∧
    (after (.available 143870) hashWaiting).response = 0x1000000000000 ∧
    (after (.available 143870) hashWaiting).hdone = true := by decide

/-- R197's example. -/
theorem test_receiving :
    let s := clockAt 124750 (necAt 10 [0, 0, 0, 0] necOnly)
    (after (.receiving 130000) s).response = 0x1000000000000 ∧ (after (.receiving 151750) s).response = 0 ∧
      (after (.receiving 151750) s).nec.count = 10 := by decide

/-- The self-expiry vector of section 2.2, `reqTimeoutCheck_NEC = 1`. -/
theorem test_receiving_expiry :
    let s := clockAt 124750 (necAt 10 [0, 0, 0, 0] necOnly)
    let s := { s with cfg := { s.cfg with nec := { necDefault with reqTimeoutCheck := true } } }
    (after (.receiving 151749) s).response = 0x1000000000000 ∧ (after (.receiving 151749) s).nec.count = 10 ∧
      (after (.receiving 151750) s).response = 0 ∧ (after (.receiving 151750) s).nec.count = 0 := by decide

/-- RD2. -/
theorem test_read_structured :
    (after (.read 170000) necClaimed).response = 0xA222200000002 ∧
    (after (.read 170000) necClaimed).nec = ⟨0, [0x22, 0x22, 0x02, 0xFD]⟩ ∧
    (after (.read 170000) necClaimed).tag = .nec := by decide

/-- RD5, RD6. -/
theorem test_read_hash :
    (after (.read 143870) hashWaiting).response = 0xE0006ED0E573B ∧ (after (.read 143870) hashWaiting).hcount = 0 ∧
    (after (.read 143869) hashWaiting).response = 0 ∧ (after (.read 143869) hashWaiting).hcount = 7 := by decide

/-- AR8. -/
theorem test_reset : exec (.reset 12345) necClaimed = .next State.reset := rfl

/-! ### The hypotheses of each statement can be met -/

theorem test_hyp_EncodeOfDecode : decode 0x1FFFFFFFF#35 = .ok (.edge 0xFFFFFFFF) := by decide

theorem test_hyp_ReservedOpCodeRefused :
    let s : State := { State.reset with requests := [0x600000000] }
    requestOp 0x700000000#35 ≠ 0b110#3 ∧ s.cfg.legal = true ∧ requestOp s.nextRequest = 0b110#3 := by decide

theorem test_hyp_StepRunsDecodedRequest :
    let s : State := { State.reset with requests := [0x1000186A0, 0x500029810] }
    (s.cfg.legal = true ∧ s.requests = 0x1000186A0 :: [0x500029810] ∧ decode 0x1000186A0#35 = .ok (.edge 100000)) ∧
    (State.reset.cfg.legal = true ∧ State.reset.requests = []) := by decide

theorem test_hyp_PresentedWordRuns : State.reset.cfg.legal = true := by decide

theorem test_hyp_LegalConfigurationMeaning :
    Config.default.legal = true ∧ MachineId.structured .nec ∈ Config.default.machines ∧
    MachineId.hash ∈ Config.default.machines ∧ (fresh []).cfg.legal = false := by decide

/-- EC4, at the boundary 65535; HS3 for the armed hash machine without a pulse. -/
theorem test_hyp_SaturatedDurationIsTimeout :
    let s := clockAt 100000 State.reset
    let u := clockAt 100000 (pulsesAt 2 9000 0x811C9DC5 State.reset)
    let v := clockAt 100000 (pulsesAt 1 0 0x811C9DC5 State.reset)
    (s.Inv ∧ s.pending = false ∧ 65535 ≤ ((165535 : Time) - s.lastEdgeTime).toNat ∧ s.armed (.structured .nec) ∧
      s.armed .hash ∧ s.hcount = 0 ∧ (nextDuration 165535 s).1 = 65535) ∧
    (u.Inv ∧ u.pending = false ∧ u.armed .hash ∧ 2 ≤ u.hcount.toNat) ∧
    (v.Inv ∧ v.pending = false ∧ v.armed .hash ∧ v.hcount = 1 ∧ (onEdgeHash 65535 v).hcount = 1) := by
  have armed : ∀ m ∈ Config.default.machines, ∀ t c p h, (clockAt t (pulsesAt c p h State.reset)).armed m :=
    fun m hm _ _ _ _ => hm
  exact ⟨⟨inv_of_check (by decide), rfl, by decide, armed _ (by decide) _ 0 0 0, armed _ (by decide) _ 0 0 0, rfl,
    by decide⟩, ⟨inv_of_check (by decide), rfl, armed _ (by decide) .., by decide⟩,
    inv_of_check (by decide), rfl, armed _ (by decide) .., rfl, by decide⟩

/-- PM2, PM6, PM25: the boundary 27000 in the first, the lead and the terminal slot. -/
theorem test_hyp_TimeoutInAnySlot :
    (necOnly.params .nec).limitTimeout ≤ 27000 ∧
    ((necAt 0 [0, 0, 0, 0] necOnly).machine .nec).count.toNat ≤ (necOnly.params .nec).term ∧
    ((necAt 33 [0x22, 0x22, 0x02, 0xFA] necOnly).machine .nec).count.toNat ≤ (necOnly.params .nec).term ∧
    (onEdge .nec 27000 (necAt 0 [0, 0, 0, 0] necOnly)).nec.count = 1 ∧
    (onEdge .nec 27000 (necAt 1 [0, 0, 0, 0] necOnly)).nec.count = 0 ∧
    (onEdge .nec 27000 (necAt 33 [0x22, 0x22, 0x02, 0xFA] necOnly)).nec = ⟨0, [0x22, 0x22, 0x02, 0xFA]⟩ := by decide

/-- PM3. -/
theorem test_hyp_IdleIgnoresShortDurations :
    (necOnly.machine .nec).count = 0 ∧ (26999 : Duration) < (necOnly.params .nec).limitTimeout ∧
    onEdge .nec 26999 necOnly = necOnly := by decide

/-- PM8, PM10 and PM11, PM12, PM15 and PM16: each clause at its boundary values. -/
theorem test_hyp_LeadSlotTransitions :
    let P := necOnly.params .nec
    let s := fun last event : Time => { clockAt last (necAt 1 [0, 0, 0, 0] necOnly) with lastEventTime := event }
    let near := s 219250 163000
    let far := s 489250 327250
    ((near.machine .nec).count = 1 ∧ (26999 : Duration) < P.limitTimeout) ∧
    ((6749 : Duration) < P.limitHolding ∧ (onEdge .nec 6749 near).nec.count = 0) ∧
    (P.limitHolding ≤ 6750 ∧ (12374 : Duration) < P.limitLead ∧
      near.lastEdgeTime - near.lastEventTime < P.limitRepeat ∧
      (onEdge .nec 6750 near).nec = ⟨34, [0xFF, 0xFF, 0x00, 0xFF]⟩ ∧
      (onEdge .nec 6750 near).lastEventTime = 219250 ∧ (onEdge .nec 12374 (s 324999 163000)).nec.count = 34) ∧
    (P.limitRepeat ≤ far.lastEdgeTime - far.lastEventTime ∧ (onEdge .nec 11250 far).nec.count = 0 ∧
      (onEdge .nec 11250 far).lastEventTime = 327250) ∧
    (P.limitLead ≤ 12375 ∧ (onEdge .nec 12375 near).nec.count = 2 ∧ (onEdge .nec 26999 near).nec.count = 2) := by
  decide

/-- PM17, PM18, PM20, PM21; the last slot before the terminal one. -/
theorem test_hyp_DataSlotStoresBit :
    let P := necOnly.params .nec
    (2 ≤ ((necAt 2 [0xFF, 0, 0, 0] necOnly).machine .nec).count.toNat ∧
      ((necAt 32 [0, 0, 0, 0] necOnly).machine .nec).count.toNat < P.bits + 1 ∧
      (1686 : Duration) < P.limitTimeout ∧ (1687 : Duration) < P.limitTimeout) ∧
    (onEdge .nec 1686 (necAt 2 [0xFF, 0, 0, 0] necOnly)).nec = ⟨3, [0x7F, 0, 0, 0]⟩ ∧
    (onEdge .nec 1687 (necAt 2 [0, 0, 0, 0] necOnly)).nec = ⟨3, [0x80, 0, 0, 0]⟩ ∧
    (onEdge .nec 2250 (necAt 9 [0x44, 0, 0, 0] necOnly)).nec = ⟨10, [0xA2, 0, 0, 0]⟩ ∧
    (onEdge .nec 1125 (necAt 10 [0, 0xFF, 0, 0] necOnly)).nec = ⟨11, [0, 0x7F, 0, 0]⟩ := by decide

/-- PM23, PM24; PA7. -/
theorem test_hyp_TerminalSlotChecksum :
    let s := necAt 33 [0x22, 0x22, 0x02, 0xFA] necOnly
    let P := s.params .nec
    (1 ≤ P.bits ∧ (s.machine .nec).count.toNat = P.bits + 1 ∧ (2250 : Duration) < P.limitTimeout ∧
      [0x22, 0x22, 0x02, 0xFD#8] = (s.machine .nec).data.modify ((P.bits - 1) / 8)
        (fun b => b >>> 1 ||| if P.limitLogic ≤ 2250 then 0x80#8 else 0x00#8) ∧
      P.checksum.holds [0x22, 0x22, 0x02, 0xFD] = true ∧
      (onEdge .nec 2250 s).nec = ⟨34, [0x22, 0x22, 0x02, 0xFD]⟩ ∧ (onEdge .nec 2250 s).pending = true) ∧
    ([0x22, 0x22, 0x02, 0x7D#8] = (s.machine .nec).data.modify ((P.bits - 1) / 8)
        (fun b => b >>> 1 ||| if P.limitLogic ≤ 1125 then 0x80#8 else 0x00#8) ∧
      P.checksum.holds [0x22, 0x22, 0x02, 0x7D] = false ∧
      (onEdge .nec 1125 s).nec = ⟨0, [0x22, 0x22, 0x02, 0x7D]⟩ ∧ (onEdge .nec 1125 s).pending = false) ∧
    (onEdge .panasonic 1728 { State.reset with pan := ⟨49, [0x02, 0x20, 0xB0, 0x00, 0x3D, 0x1A]⟩ }).pan =
      ⟨50, [0x02, 0x20, 0xB0, 0x00, 0x3D, 0x8D]⟩ := by decide

/-- An edge without a claim, and one with a claim. -/
theorem test_hyp_OtherMachinesStayArmed :
    Proto.panasonic ≠ .nec ∧ State.reset.pending = false ∧ (onEdge .nec 27000 State.reset).pending = false ∧
    (onEdge .nec 2250 (necAt 33 [0x22, 0x22, 0x02, 0xFA] State.reset)).pending = true := by decide

theorem test_hyp_NothingDecodedWithoutSilence :
    (necOnly.machine .nec).count = 0 ∧
    ∀ d ∈ [13500, 2250, (1125 : Duration)], d < (necOnly.params .nec).limitTimeout :=
  ⟨rfl, below_of_all (by decide)⟩

/-- A frame whose checksum holds (42_nec_panasonic.md R143's example), and one whose checksum fails. -/
theorem test_hyp_DataSlotsDecodeFrame :
    let s := necAt 2 [0, 0, 0, 0] necOnly
    let P := s.params .nec
    let good := necDurations [0x00, 0xFF, 0x45, 0xBA]
    let bad := necDurations [0x00, 0xFF, 0x45, 0xBB]
    (P.legal = true ∧ (s.machine .nec).count = 2 ∧ (s.machine .nec).data.length = P.bytes) ∧
    (good.length = P.bits ∧ (∀ d ∈ good, d < P.limitTimeout) ∧ frameOf P good = [0x00, 0xFF, 0x45, 0xBA] ∧
      P.checksum.holds (frameOf P good) = true) ∧
    (bad.length = P.bits ∧ (∀ d ∈ bad, d < P.limitTimeout) ∧ P.checksum.holds (frameOf P bad) = false) :=
  ⟨by decide, ⟨by decide, below_of_all (by decide), by decide, by decide⟩,
    by decide, below_of_all (by decide), by decide⟩

/-- HC1, HC2, HC4, HC5, HC6: each clause at its boundary values. -/
theorem test_hyp_TernaryComparison :
    (hashDefault.tolNum = 1 ∧ hashDefault.tolDen = 3) ∧
    (3 * (600 : Duration).toNat ≤ 2 * (900 : Duration).toNat ∧ compareCode hashDefault 900 600 = 0) ∧
    (2 * (900 : Duration).toNat < 3 * (1200 : Duration).toNat ∧
      4 * (900 : Duration).toNat ≤ 3 * (1200 : Duration).toNat ∧ compareCode hashDefault 900 1200 = 2) ∧
    (3 * (1199 : Duration).toNat < 4 * (900 : Duration).toNat ∧ compareCode hashDefault 900 601 = 1 ∧
      compareCode hashDefault 900 1199 = 1 ∧ compareCode hashDefault 0 0 = 0) := by decide

/-- HS1 to HS7. -/
theorem test_hyp_HashEdgeTransitions :
    (hashOnly.cfg.hash.timeout ≤ 27000 ∧ hashOnly.hcount = 0 ∧ (onEdgeHash 27000 hashOnly).hash = 0x811C9DC5 ∧
      (onEdgeHash 27000 hashOnly).hcount = 1 ∧ (pulsesAt 1 0 0 hashOnly).hcount = 1 ∧
      onEdgeHash 65535 (pulsesAt 1 0 0 hashOnly) = pulsesAt 1 0 0 hashOnly ∧
      2 ≤ (pulsesAt 3 4500 0 hashOnly).hcount.toNat ∧ (onEdgeHash 27000 (pulsesAt 3 4500 0 hashOnly)).hdone = true) ∧
    ((26999 : Duration) < hashOnly.cfg.hash.timeout ∧ onEdgeHash 26999 hashOnly = hashOnly ∧
      onEdgeHash 9000 (pulsesAt 1 0 5 hashOnly) = pulsesAt 2 9000 5 hashOnly ∧
      (pulsesAt 2 9000 0x811C9DC5 hashOnly).hcount.toNat ≠ hashOnly.cfg.hash.maxBlocks ∧
      onEdgeHash 4500 (pulsesAt 2 9000 0x811C9DC5 hashOnly) = pulsesAt 3 4500 0x050C5D1F hashOnly ∧
      hashOnly.cfg.hash.legal = true ∧
      (pulsesAt 2 9000 0x811C9DC5 hashOnly).hcount.toNat ≤ hashOnly.cfg.hash.maxBlocks ∧
      (pulsesAt 254 500 0x811C9DC5 hashOnly).hcount.toNat = hashOnly.cfg.hash.maxBlocks ∧
      (onEdgeHash 500 (pulsesAt 254 500 0x811C9DC5 hashOnly)).hcount = 255 ∧
      (onEdgeHash 500 (pulsesAt 254 500 0x811C9DC5 hashOnly)).hash = 0x050C5D1E ∧
      (onEdgeHash 500 (pulsesAt 254 500 0x811C9DC5 hashOnly)).pending = true) := by decide

/-- The forced end of section 2.5, `HASH_MAX_BLOCKS = 4`: four pulses of 500. -/
theorem test_hyp_HashFingerprintOfPulses :
    let s : State := { pulsesAt 1 0 0x811C9DC5 hashOnly with
      cfg := { hashOnly.cfg with hash := { hashDefault with maxBlocks := 4 } } }
    s.cfg.hash.legal = true ∧ s.hcount = 1 ∧ s.hash = s.cfg.hash.basis ∧ s.pending = false ∧ s.hdone = false ∧
    (∀ d ∈ [500, 500, 500, (500 : Duration)], d < s.cfg.hash.timeout) ∧
    [500, 500, (500 : Duration)].length + 1 ≤ s.cfg.hash.maxBlocks ∧
    (feedHash [500, 500, 500, 500] s).hash = 0x25AE7EE0 ∧ (feedHash [500, 500, 500, 500] s).hdone = true :=
  ⟨by decide, rfl, rfl, rfl, rfl, below_of_all (by decide), by decide, by decide, by decide⟩

theorem test_hyp_SameRatiosSameFingerprint :
    let s := pulsesAt 1 0 0x811C9DC5 hashOnly
    let t := pulsesAt 1 7 0x811C9DC5 State.reset
    s.cfg.hash = t.cfg.hash ∧ s.hcount = 1 ∧ t.hcount = 1 ∧ s.hash = t.hash ∧ s.hdone = t.hdone ∧
    (∀ x ∈ [1000, (2000 : Duration)], x < s.cfg.hash.timeout) ∧
    (∀ x ∈ [10, (30 : Duration)], x < s.cfg.hash.timeout) ∧
    codesFrom s.cfg.hash 1000 [2000] = codesFrom s.cfg.hash 10 [30] ∧
    (feedHash [1000, 2000] s).hash = 0x050C5D1D :=
  ⟨rfl, rfl, rfl, rfl, rfl, below_of_all (by decide), below_of_all (by decide), by decide, by decide⟩

/-- A pending claim; a sequence that is due, between two machines that self-expire, NEC with a frame; and one
microsecond too early. -/
theorem test_hyp_TimeoutPhaseEffect :
    let cfg : Config := { Config.default with
      machines := [.structured .nec, .hash, .structured .panasonic]
      nec := { necDefault with reqTimeoutCheck := true }
      panasonic := { panasonicDefault with reqTimeoutCheck := true } }
    let s : State := { clockAt 100000 (pulsesAt 2 500 1 (necAt 10 [0, 0, 0, 0] State.reset)) with
      cfg := cfg, pan := ⟨3, [0, 0, 0, 0, 0, 0]⟩ }
    necClaimed.pending = true ∧ s.pending = false ∧
    s.cfg.machines = [.structured .nec] ++ MachineId.hash :: [.structured .panasonic] ∧
    MachineId.hash ∉ [MachineId.structured .nec] ∧
    (s.hashDue (s.peekElapsed 127000) ∧ s.staleFrame .nec (s.peekElapsed 127000) ∧
      ¬ s.hashDue (s.peekElapsed 126999) ∧ ¬ s.staleFrame .nec (s.peekElapsed 126999)) ∧
    (timeoutPhase 127000 s).nec.count = 0 ∧ (timeoutPhase 127000 s).pan.count = 3 ∧
    (timeoutPhase 127000 s).hdone = true := by
  unfold State.hashDue State.staleFrame State.armed
  decide

/-- The claim comes from the first machine, or from none of those before the last. -/
theorem test_hyp_FanOutStopsAtFirstClaim :
    (fanOut 2250 [.structured .nec] (necAt 33 [0x22, 0x22, 0x02, 0xFA] State.reset)).pending = true ∧
    (fanOut 2250 [.structured .nec] State.reset).pending = false := by decide

/-- AR1. -/
theorem test_hyp_BlockedEdgeWritesNothing :
    necClaimed.pending = true ∧ exec (.edge 208000) necClaimed = .next { necClaimed with response := 0 } :=
  ⟨rfl, rfl⟩

theorem test_hyp_UnblockedEdgeOrder :
    hashWaiting.pending = false ∧ (timeoutPhase 143870 hashWaiting).pending = true ∧
    (timeoutPhase 143869 hashWaiting).pending = false := by decide

/-- NEC alone, its frame stale at 151750 and not at 151749 where it self-expires, and never by default; HASH alone,
its sequence due and not yet due (RD5, RD6). -/
theorem test_hyp_SingleProtocolEdge :
    let s := clockAt 124750 (necAt 10 [0, 0, 0, 0] necOnly)
    let u := { s with cfg := { s.cfg with nec := { necDefault with reqTimeoutCheck := true } } }
    (s.cfg.machines = [.structured .nec] ∧ s.pending = false ∧ ¬ s.staleFrame .nec (s.peekElapsed 151750)) ∧
    (u.cfg.machines = [.structured .nec] ∧ u.pending = false ∧ u.staleFrame .nec (u.peekElapsed 151750) ∧
      ¬ u.staleFrame .nec (u.peekElapsed 151749) ∧ (after (.edge 151750) u).nec.count = 1 ∧
      (after (.edge 151750) s).nec.count = 0) ∧
    (hashWaiting.cfg.machines = [.hash] ∧ hashWaiting.pending = false ∧
      hashWaiting.hashDue (hashWaiting.peekElapsed 143870) ∧
      ¬ hashWaiting.hashDue (hashWaiting.peekElapsed 143869)) := by
  unfold State.hashDue State.staleFrame State.armed
  decide

theorem test_hyp_SilenceFoundByEdgeDropsIt :
    hashWaiting.pending = false ∧ hashWaiting.hashDue (hashWaiting.peekElapsed 143870) := by
  unfold State.hashDue State.armed
  decide

/-- An EDGE that claims while the Panasonic and the hash machine are not armed. -/
theorem test_hyp_EdgeFrame :
    let s := necAt 33 [0x22, 0x22, 0x02, 0xFA] (clockAt 160750 necOnly)
    exec (.edge 163000) s = .next (after (.edge 163000) s) ∧ ¬ s.armed (.structured .panasonic) ∧ ¬ s.armed .hash ∧
    (after (.edge 163000) s).pending = true := by
  refine ⟨rfl, ?_⟩
  unfold State.armed
  decide

theorem test_hyp_EdgeClockMovesUnlessBlocked :
    exec (.edge 143870) hashWaiting = .next (after (.edge 143870) hashWaiting) ∧
    exec (.edge 208000) necClaimed = .next (after (.edge 208000) necClaimed) ∧ necClaimed.pending = true ∧
    hashWaiting.pending = false ∧ hashWaiting.hashDue (hashWaiting.peekElapsed 143870) ∧
    ¬ hashWaiting.hashDue (hashWaiting.peekElapsed 143869) := by
  refine ⟨rfl, rfl, ?_⟩
  unfold State.hashDue State.armed
  decide

/-- AR10: in progress until stale; and the hash machine in progress. -/
theorem test_hyp_ReceivingAnswersInProgress :
    let s := clockAt 100000 (necAt 1 [0, 0, 0, 0] necOnly)
    (timeoutPhase 126999 s = s ∧ s.pending = false ∧ s.armed (.structured .nec) ∧
      1 ≤ (s.machine .nec).count.toNat ∧ (s.machine .nec).count.toNat ≤ (s.params .nec).term ∧
      s.peekElapsed 126999 < (s.params .nec).limitTimeout) ∧
    (after (.receiving 126999) s).response = 0x1000000000000 ∧
    (timeoutPhase 127000 s = s ∧ ¬ s.peekElapsed 127000 < (s.params .nec).limitTimeout) ∧
    (after (.receiving 127000) s).response = 0 ∧
    (hashWaiting.armed .hash ∧ 1 ≤ hashWaiting.hcount.toNat ∧ hashWaiting.hdone = false ∧
      hashWaiting.peekElapsed 143869 < hashWaiting.cfg.hash.timeout) := by
  unfold State.armed
  decide

theorem test_hyp_QueriesAreIdempotent :
    exec (.available 143870) hashWaiting = .next (after (.available 143870) hashWaiting) ∧
    exec (.receiving 143870) hashWaiting = .next (after (.receiving 143870) hashWaiting) ∧
    exec (.checkTimeout 143870) hashWaiting = .next (after (.checkTimeout 143870) hashWaiting) := ⟨rfl, rfl, rfl⟩

theorem test_hyp_ResetWritesEveryElement : necClaimed.cfg = Config.default := rfl

/-- AR9, from a claimed state. -/
theorem test_hyp_FirstAnswersAfterReset :
    exec (.reset 0) necClaimed = .next (after (.reset 0) necClaimed) ∧
    (after (.read 0) (after (.reset 0) necClaimed)).response = 0 := ⟨rfl, by decide⟩

/-- RD2, RD3. -/
theorem test_hyp_ReadReturnsStructuredFrame :
    let pan : State := { State.reset with
      pan := ⟨50, [0x02, 0x20, 0xB0, 0x00, 0x3D, 0x8D]⟩, tag := .panasonic, pending := true }
    (necClaimed.pending = true ∧ necClaimed.tag = Proto.nec.tag) ∧
    (pan.pending = true ∧ pan.tag = Proto.panasonic.tag) ∧
    (after (.read 163752) pan).response = 0xC20028D3D00B0 := by decide

/-- RD4. -/
theorem test_hyp_ReadReturnsFingerprint :
    hashClaimed.pending = true ∧ hashClaimed.tag = .hash ∧
    (after (.read 143871) hashClaimed).response = 0xE0006ED0E573B := by decide

/-- RD6. -/
theorem test_hyp_ReadWithNothingClaimed : (timeoutPhase 143869 hashWaiting).pending = false := by decide

/-- RD5. -/
theorem test_hyp_ReadFindsSilenceAndConsumes :
    hashWaiting.pending = false ∧ hashWaiting.hashDue (hashWaiting.peekElapsed 143870) := by
  unfold State.hashDue State.armed
  decide

/-- RD2: a claim is pending; RD5, RD6: the READ's own timeout phase publishes, at 27000 and not before. -/
theorem test_hyp_ReadOnce :
    (necClaimed.Inv ∧ necClaimed.cfg.hashFallbackReset = true ∧
      exec (.read 170000) necClaimed = .next (after (.read 170000) necClaimed) ∧
      (after (.read 170000) necClaimed).response.getLsbD 51 = true) ∧
    (hashWaiting.Inv ∧ hashWaiting.cfg.hashFallbackReset = true ∧
      exec (.read 143870) hashWaiting = .next (after (.read 143870) hashWaiting) ∧
      (after (.read 143870) hashWaiting).response.getLsbD 51 = true ∧
      (after (.read 143869) hashWaiting).response.getLsbD 51 = false) :=
  ⟨⟨inv_of_check (by decide), rfl, rfl, by decide⟩, inv_of_check (by decide), rfl, rfl, by decide, by decide⟩

theorem test_hyp_ReadResultHasChecksum :
    (necClaimed.Inv ∧ exec (.read 170000) necClaimed = .next (after (.read 170000) necClaimed) ∧
      (after (.read 170000) necClaimed).response.getLsbD 51 = true) ∧
    (hashWaiting.Inv ∧ (after (.read 143870) hashWaiting).response.getLsbD 51 = true) :=
  ⟨⟨inv_of_check (by decide), rfl, by decide⟩, inv_of_check (by decide), by decide⟩

theorem test_hyp_PollSideFrame :
    exec (.read 143870) hashWaiting = .next (after (.read 143870) hashWaiting) := rfl

/-- A step that claims. -/
theorem test_hyp_StepKeepsInvariants :
    let s : State := { necAt 33 [0x22, 0x22, 0x02, 0xFA] (clockAt 160750 State.reset) with requests := [0x100027CB8] }
    s.Inv ∧ step s = .next (stepped s) ∧ (stepped s).pending = true :=
  ⟨inv_of_check (by decide), rfl, by decide⟩

theorem test_hyp_AtMostOneMachineClaimed : hashClaimed.Inv ∧ hashClaimed.pending = true :=
  ⟨inv_of_check (by decide), rfl⟩

theorem test_hyp_ConfigurationIsReadOnly : exec (.reset 0) necClaimed = .next State.reset := rfl

/-- An EDGE in a frame, and one that ends it. -/
theorem test_hyp_CursorOnlyGrowsInFrame :
    let s := clockAt 100000 (necAt 17 [0, 0, 0, 0] necOnly)
    s.Inv ∧ s.armed (.structured .nec) ∧ (s.params .nec).reqTimeoutCheck = false ∧
    exec (.edge 101125) s = .next (after (.edge 101125) s) ∧ (after (.edge 101125) s).nec.count = 18 ∧
    (after (.edge 130000) s).nec.count = 0 :=
  ⟨inv_of_check (by decide), by simp [State.armed, clockAt, necAt, necOnly, fresh], rfl, rfl, by decide, by decide⟩

theorem test_hyp_ClaimBlocksUntilRead :
    necClaimed.pending = true ∧ (∀ now, Instr.available 189999 ≠ .read now) ∧
    (∀ now, Instr.available 189999 ≠ .reset now) ∧
    exec (.available 189999) necClaimed = .next (after (.available 189999) necClaimed) :=
  ⟨rfl, fun _ => Instr.noConfusion, fun _ => Instr.noConfusion, rfl⟩

theorem test_hyp_LastEventOnlyByStructuredClaim :
    let s := necAt 33 [0x22, 0x22, 0x02, 0xFA] (clockAt 160750 State.reset)
    (∀ now, Instr.edge 163000 ≠ .reset now) ∧ exec (.edge 163000) s = .next (after (.edge 163000) s) ∧
    (after (.edge 163000) s).lastEventTime ≠ s.lastEventTime :=
  ⟨fun _ => Instr.noConfusion, rfl, by decide⟩

/-- The first edge of program P1 (after a saturated silence) and one at the boundary of the timeout; the lead at its
boundaries; 42_nec_panasonic.md R143's frame, and a frame whose checksum fails. -/
theorem test_hyp_FrameIsReadBack :
    let P := necOnly.params .nec
    let good := necDurations [0x00, 0xFF, 0x45, 0xBA]
    let bad := necDurations [0x00, 0xFF, 0x45, 0xBB]
    necOnly.Inv ∧ necOnly.cfg.machines = [.structured .nec] ∧ necOnly.pending = false ∧
    (necOnly.machine .nec).count = 0 ∧
    (P.limitTimeout ≤ necOnly.peekElapsed 100000 ∧ P.limitTimeout ≤ necOnly.peekElapsed 27000) ∧
    (P.limitLead ≤ 12375 ∧ (26999 : Duration) < P.limitTimeout) ∧
    (good.length = P.bits ∧ (∀ d ∈ good, d < P.limitTimeout) ∧ P.checksum.holds (frameOf P good) = true) ∧
    (bad.length = P.bits ∧ (∀ d ∈ bad, d < P.limitTimeout) ∧ P.checksum.holds (frameOf P bad) = false) :=
  ⟨inv_of_check (by decide), rfl, rfl, rfl, by decide, by decide,
    ⟨by decide, below_of_all (by decide), by decide⟩, by decide, below_of_all (by decide), by decide⟩

/-- RS4 and RS5: the two sides of the repeat window, 161999 and 162000; the holding duration at its boundaries. -/
theorem test_hyp_HoldingSignalIsReadBack :
    let P := necOnly.params .nec
    (necOnly.Inv ∧ necOnly.cfg.machines = [.structured .nec] ∧ necOnly.pending = false ∧
      (necOnly.machine .nec).count = 0) ∧
    (P.limitTimeout ≤ necOnly.peekElapsed 150749 ∧ P.limitTimeout ≤ necOnly.peekElapsed 150750) ∧
    (P.limitHolding ≤ 6750 ∧ (12374 : Duration) < P.limitLead) ∧
    (150749 + (11250 : Duration).setWidth 32 - necOnly.lastEventTime < P.limitRepeat ∧
      (after (.edge 161999) (after (.edge 150749) necOnly)).nec.count = 34) ∧
    (¬ 150750 + (11250 : Duration).setWidth 32 - necOnly.lastEventTime < P.limitRepeat ∧
      (after (.edge 162000) (after (.edge 150750) necOnly)).nec.count = 0) :=
  ⟨⟨inv_of_check (by decide), rfl, rfl, rfl⟩, by decide, by decide, by decide, by decide⟩

end Sys2Proof.Tests
end

/-! ## The state family (spec/10_state.md): what an operation can write, and what every step keeps

The development has four layers. `Writes` says once what each operation can leave, its response aside; every
statement about all operations is a case split on it. The frame lemmas say what the operations keep. `State.Quiet` is
the invariant of 10_state.md R38 where nothing is pending: every machine moves from a quiet state, so each transition
is shown once to lead to a state that satisfies the invariants. The obligations follow. -/

namespace Sys2Proof

/-- The hash machine's tag is no structured machine's (30_encoding.md R81). -/
theorem Proto.tag_ne_hash (p : Proto) : p.tag ≠ .hash := by cases p <;> decide

/-- `M` lists no machine twice in a legal configuration (00_scope.md R6). -/
theorem legal_nodup {cfg : Config} (h : cfg.legal = true) : cfg.machines.Nodup := by
  simp only [Config.legal, Bool.and_eq_true, decide_eq_true_eq] at h
  obtain ⟨⟨-, hnodup⟩, -⟩ := h
  exact hnodup

end Sys2Proof

namespace Sys2Proof.Machine

/-! ### What an operation can write -/

/-- The state `u` is one that operation `i` can leave from `s`, its response aside. READ has three cases
(spec/44_gate_read.md R180 to R183). -/
inductive Writes (s : State) : Instr → State → Prop
  | nop (now : Time) : Writes s (.nop now) s
  | edge (now : Time) : Writes s (.edge now) (edgeEffect now s)
  | checkTimeout (now : Time) : Writes s (.checkTimeout now) (timeoutPhase now s)
  | available (now : Time) : Writes s (.available now) (timeoutPhase now s)
  | receiving (now : Time) : Writes s (.receiving now) (timeoutPhase now s)
  | readNothing (now : Time) : Writes s (.read now) (timeoutPhase now s)
  | readStructured (now : Time) (p : Proto) (hp : (timeoutPhase now s).pending = true)
      (ht : (timeoutPhase now s).tag = p.tag) : Writes s (.read now) (releaseStructured p (timeoutPhase now s))
  | readHash (now : Time) (hp : (timeoutPhase now s).pending = true) (ht : (timeoutPhase now s).tag = .hash) :
      Writes s (.read now) (releaseHash (timeoutPhase now s))
  | reset (now : Time) : Writes s (.reset now) (resetBlock s)

/-- The inversion lemma of READ's second half (44_gate_read.md R180): nothing is released, or the owner is. -/
theorem readClaim_cases (s : State) :
    (∃ r, readClaim s = s.answer r) ∨
    (∃ p r, s.pending = true ∧ s.tag = p.tag ∧ readClaim s = (releaseStructured p s).answer r) ∨
    (∃ r, s.pending = true ∧ s.tag = .hash ∧ readClaim s = (releaseHash s).answer r) := by
  unfold readClaim
  split <;> rename_i hp
  · split <;> rename_i ht
    · exact .inl ⟨_, rfl⟩
    · exact .inr (.inl ⟨.nec, _, hp, ht, rfl⟩)
    · exact .inr (.inl ⟨.panasonic, _, hp, ht, rfl⟩)
    · exact .inr (.inr ⟨_, hp, ht, rfl⟩)
  · exact .inl ⟨_, rfl⟩

/-- The inversion lemma of `exec`: every operation leaves one of the states of `Writes`, with a response. -/
theorem exec_writes {i : Instr} {s t : State} (h : exec i s = .next t) : ∃ u r, Writes s i u ∧ t = u.answer r := by
  cases i with
  | nop now => exact ⟨_, _, .nop now, (Host.Outcome.next.inj h).symm⟩
  | edge now => exact ⟨_, _, .edge now, (Host.Outcome.next.inj h).symm⟩
  | checkTimeout now => exact ⟨_, _, .checkTimeout now, (Host.Outcome.next.inj h).symm⟩
  | available now => exact ⟨_, _, .available now, (Host.Outcome.next.inj h).symm⟩
  | receiving now => exact ⟨_, _, .receiving now, (Host.Outcome.next.inj h).symm⟩
  | read now =>
    have ht : t = readClaim (timeoutPhase now s) := (Host.Outcome.next.inj h).symm
    obtain ⟨r, e⟩ | ⟨p, r, hp, hg, e⟩ | ⟨r, hp, hg, e⟩ := readClaim_cases (timeoutPhase now s)
    · exact ⟨_, r, .readNothing now, ht.trans e⟩
    · exact ⟨_, r, .readStructured now p hp hg, ht.trans e⟩
    · exact ⟨_, r, .readHash now hp hg, ht.trans e⟩
  | reset now => exact ⟨_, _, .reset now, (Host.Outcome.next.inj h).symm⟩

/-- EDGE leaves the state of `edgeEffect` and a zero response (45_dispatch.md R190). -/
theorem exec_edge_eq {now : Time} {s t : State} (h : exec (.edge now) s = .next t) :
    t = (edgeEffect now s).answer Response.empty := (Host.Outcome.next.inj h).symm

/-- The inversion lemma of a step: it runs the operation of the oldest request under a legal configuration
(00_scope.md R8, 20_memory.md R58). -/
theorem step_runs {s t : State} (h : step s = .next t) : ∃ i, exec i s.takeRequest = .next t := by
  unfold step at h
  split at h
  · split at h
    · exact ⟨_, h⟩
    · cases h
  · cases h

/-! ### What one machine's edge, and the fan-out, keep -/

/-- No machine's edge writes a parameter (10_state.md R28). -/
@[simp] theorem onEdgeOf_cfg (d : Duration) (m : MachineId) (s : State) : (onEdgeOf d m s).cfg = s.cfg := by
  cases m with
  | structured p => obtain ⟨m, e⟩ | ⟨m, e⟩ := onEdge_shape p d s <;> simp [onEdgeOf, e]
  | hash => obtain ⟨a, b, c, e⟩ | ⟨a, b, c, e⟩ := onEdgeHash_shape d s <;> simp [onEdgeOf, e]

/-- No machine's edge writes the Edge Clock (10_state.md R25). -/
@[simp] theorem onEdgeOf_lastEdgeTime (d : Duration) (m : MachineId) (s : State) :
    (onEdgeOf d m s).lastEdgeTime = s.lastEdgeTime := by
  cases m with
  | structured p => obtain ⟨m, e⟩ | ⟨m, e⟩ := onEdge_shape p d s <;> simp [onEdgeOf, e]
  | hash => obtain ⟨a, b, c, e⟩ | ⟨a, b, c, e⟩ := onEdgeHash_shape d s <;> simp [onEdgeOf, e]

/-- A machine's edge leaves the registers of every other structured machine alone. -/
theorem onEdgeOf_machine_other {d : Duration} {m : MachineId} {p : Proto} (s : State) (h : m ≠ .structured p) :
    (onEdgeOf d m s).machine p = s.machine p := by
  cases m with
  | structured q =>
    have hq : p ≠ q := fun e => h (e ▸ rfl)
    obtain ⟨m, e⟩ | ⟨m, e⟩ := onEdge_shape q d s
    · rw [onEdgeOf, e, setMachine_other _ _ hq]
    · rw [onEdgeOf, e, claim_machine_other _ hq, setMachine_other _ _ hq]
  | hash =>
    obtain ⟨a, b, c, e⟩ | ⟨a, b, c, e⟩ := onEdgeHash_shape d s
    · rw [onEdgeOf, e]; rfl
    · rw [onEdgeOf, e, publishHash_machine]; rfl

/-- A machine's edge keeps `lastEventTime`, or a structured machine claims and records the Edge Clock there
(41_protocol_machine.md R121, 43_hash_decoder.md R171). -/
theorem onEdgeOf_lastEventTime (d : Duration) (m : MachineId) (s : State) :
    (onEdgeOf d m s).lastEventTime = s.lastEventTime ∨
    ((onEdgeOf d m s).lastEventTime = s.lastEdgeTime ∧ (onEdgeOf d m s).pending = true ∧
      ∃ p : Proto, (onEdgeOf d m s).tag = p.tag) := by
  cases m with
  | structured p =>
    obtain ⟨m, e⟩ | ⟨m, e⟩ := onEdge_shape p d s
    · exact .inl (by simp [onEdgeOf, e])
    · exact .inr ⟨by simp [onEdgeOf, e], by simp [onEdgeOf, e], p, by simp [onEdgeOf, e]⟩
  | hash =>
    left
    obtain ⟨a, b, c, e⟩ | ⟨a, b, c, e⟩ := onEdgeHash_shape d s <;> simp [onEdgeOf, e]

@[simp] theorem fanOut_cfg (d : Duration) (ms : List MachineId) (s : State) : (fanOut d ms s).cfg = s.cfg :=
  fanOut_keeps (R := fun t => t.cfg = s.cfg) (fun m t _ ht _ => (onEdgeOf_cfg d m t).trans ht) s rfl

@[simp] theorem fanOut_lastEdgeTime (d : Duration) (ms : List MachineId) (s : State) :
    (fanOut d ms s).lastEdgeTime = s.lastEdgeTime :=
  fanOut_keeps (R := fun t => t.lastEdgeTime = s.lastEdgeTime)
    (fun m t _ ht _ => (onEdgeOf_lastEdgeTime d m t).trans ht) s rfl

/-- The fan-out leaves the registers of a structured machine that is not offered the edge alone. -/
theorem fanOut_machine_of_notMem {d : Duration} {ms : List MachineId} {p : Proto} (s : State)
    (h : MachineId.structured p ∉ ms) : (fanOut d ms s).machine p = s.machine p :=
  fanOut_keeps (R := fun t => t.machine p = s.machine p)
    (fun _ t hm ht _ => (onEdgeOf_machine_other t (fun e => h (e ▸ hm))).trans ht) s rfl

/-- The fan-out over machines without repetition offers a structured machine at most one edge (45_dispatch.md R193). -/
theorem fanOut_machine_once (p : Proto) (d : Duration) {ms : List MachineId} (hn : ms.Nodup) (s : State) :
    (fanOut d ms s).machine p = s.machine p ∨
    ∃ t : State, t.cfg = s.cfg ∧ t.machine p = s.machine p ∧
      (fanOut d ms s).machine p = (onEdge p d t).machine p := by
  induction ms generalizing s with
  | nil => exact .inl rfl
  | cons m ms ih =>
    obtain ⟨hm, hn⟩ := List.nodup_cons.mp hn
    unfold fanOut
    split
    · exact .inl rfl
    · by_cases e : m = .structured p
      · subst e
        exact .inr ⟨s, rfl, rfl, fanOut_machine_of_notMem _ hm⟩
      · have same := onEdgeOf_machine_other (d := d) s e
        obtain h | ⟨t, hc, ht, h⟩ := ih hn (onEdgeOf d m s)
        · exact .inl (h.trans same)
        · exact .inr ⟨t, hc.trans (onEdgeOf_cfg d m s), ht.trans same, h⟩

/-- The fan-out keeps `lastEventTime`, or ends with a structured claim that records the Edge Clock there. -/
theorem fanOut_lastEventTime (d : Duration) (ms : List MachineId) (s : State) :
    (fanOut d ms s).lastEventTime = s.lastEventTime ∨
    ((fanOut d ms s).lastEventTime = s.lastEdgeTime ∧ (fanOut d ms s).pending = true ∧
      ∃ p : Proto, (fanOut d ms s).tag = p.tag) := by
  have keeps := fanOut_keeps (d := d) (ms := ms)
    (R := fun t => t.lastEdgeTime = s.lastEdgeTime ∧ (t.lastEventTime = s.lastEventTime ∨
      (t.lastEventTime = s.lastEdgeTime ∧ t.pending = true ∧ ∃ p : Proto, t.tag = p.tag)))
    (fun m t _ ⟨hclock, hevent⟩ hp => by
      have old : t.lastEventTime = s.lastEventTime := hevent.resolve_right (by simp [hp])
      have := onEdgeOf_lastEventTime d m t
      rw [hclock, old] at this
      exact ⟨(onEdgeOf_lastEdgeTime d m t).trans hclock, this⟩)
  exact (keeps s ⟨rfl, .inl rfl⟩).2

/-! ### What the timeout phase keeps, and when it claims -/

/-- A property that the self-expiry of every machine that requires timeout checking keeps is kept by the timeout
phase (45_dispatch.md R192). -/
theorem timeoutLoop_keeps_of_required {R : State → Prop} {e16 : Duration} {ms : List MachineId}
    (h : ∀ m t, requiresTimeoutCheck t.cfg m = true → R t → R (checkTimeoutOf e16 m t)) :
    ∀ s, R s → R (timeoutLoop e16 ms s) := by
  induction ms with
  | nil => intro s hs; exact hs
  | cons m ms ih =>
    intro s hs
    unfold timeoutLoop
    split
    · exact hs
    · split <;> rename_i hreq
      · exact ih _ (h m s hreq hs)
      · exact ih _ hs

/-- The timeout phase leaves the registers of a machine without self-expiry alone (41_protocol_machine.md R124). -/
theorem timeoutPhase_machine_of_not_required {p : Proto} {s : State} (now : Time)
    (h : (s.params p).reqTimeoutCheck = false) : (timeoutPhase now s).machine p = s.machine p := by
  refine (timeoutLoop_keeps_of_required (R := fun t => t.cfg = s.cfg ∧ t.machine p = s.machine p)
    (fun m t hreq ⟨hcfg, hm⟩ => ⟨(checkTimeoutOf_kept _ m t).cfg.trans hcfg, ?_⟩) s ⟨rfl, rfl⟩).2
  cases m with
  | structured q =>
    have hq : p ≠ q := by
      rintro rfl
      rw [hcfg] at hreq
      exact absurd (hreq.symm.trans h) (by decide)
    obtain e | e := checkTimeoutStructured_cases q (s.peekElapsed now) t <;> rw [checkTimeoutOf, e]
    · exact hm
    · rw [setMachine_other _ _ hq, hm]
  | hash =>
    obtain e | ⟨e, -⟩ := checkTimeoutHash_cases (s.peekElapsed now) t <;> rw [checkTimeoutOf, e]
    · exact hm
    · rw [publishHash_machine, hm]

/-- The self-expiry of a structured machine claims nothing (41_protocol_machine.md R124). -/
theorem checkTimeoutOf_structured_pending (p : Proto) (e16 : Duration) (s : State) :
    (checkTimeoutOf e16 (.structured p) s).pending = s.pending := by
  obtain e | e := checkTimeoutStructured_cases p e16 s <;> simp [checkTimeoutOf, e]

/-- The timeout phase does not run while a claim is pending (45_dispatch.md R192). -/
theorem timeoutLoop_pending {e16 : Duration} {ms : List MachineId} {s : State} (h : s.pending = true) :
    timeoutLoop e16 ms s = s := by
  cases ms <;> simp [timeoutLoop, h]

/-- The timeout phase claims exactly where it meets the hash machine with a pulse and its timeout reached
(43_hash_decoder.md R172, 45_dispatch.md R192). -/
theorem timeoutLoop_pending_iff (e16 : Duration) (ms : List MachineId) {s : State} (h : s.pending = false) :
    (timeoutLoop e16 ms s).pending = true ↔
      MachineId.hash ∈ ms ∧ 2 ≤ s.hcount.toNat ∧ s.cfg.hash.timeout ≤ e16 := by
  induction ms generalizing s with
  | nil => simp [timeoutLoop, h]
  | cons m ms ih =>
    rw [timeoutLoop, if_neg (by simp [h])]
    cases m with
    | structured p =>
      have kept := checkTimeoutOf_kept e16 (.structured p) s
      split
      · rw [ih ((checkTimeoutOf_structured_pending p e16 s).trans h), kept.hcount, kept.cfg]; simp
      · rw [ih h]; simp
    | hash =>
      rw [if_pos (show requiresTimeoutCheck s.cfg .hash = true from rfl), checkTimeoutOf, checkTimeoutHash]
      split <;> rename_i due
      · rw [timeoutLoop_pending (publishHash_pending s)]; simpa using due
      · rw [ih h]; simp [due]

/-- With nothing pending, the timeout phase claims exactly when a hash sequence is due (45_dispatch.md R192). -/
theorem timeoutPhase_pending_iff {now : Time} {s : State} (h : s.pending = false) :
    (timeoutPhase now s).pending = true ↔ s.hashDue (s.peekElapsed now) :=
  timeoutLoop_pending_iff _ _ h

/-! ### What the operations keep -/

@[simp] theorem dispatchEdge_cfg (now : Time) (s : State) : (dispatchEdge now s).cfg = s.cfg := by
  simp [dispatchEdge]

/-- A dispatched edge sets the Edge Clock to `now` (45_dispatch.md R190). -/
@[simp] theorem dispatchEdge_lastEdgeTime (now : Time) (s : State) : (dispatchEdge now s).lastEdgeTime = now := by
  simp [dispatchEdge]

@[simp] theorem edgeEffect_cfg (now : Time) (s : State) : (edgeEffect now s).cfg = s.cfg := by
  have phase := (timeoutPhase_kept now s).cfg
  obtain ⟨-, e⟩ | ⟨-, -, e⟩ | ⟨-, -, e⟩ := edgeEffect_cases now s <;> simp [e, phase]

/-- EDGE keeps `lastEventTime`, or is an unblocked edge at which a structured machine claims (10_state.md R26). -/
theorem edgeEffect_lastEventTime (now : Time) (s : State) :
    (edgeEffect now s).lastEventTime = s.lastEventTime ∨
    (s.pending = false ∧ (edgeEffect now s).lastEventTime = now ∧ (edgeEffect now s).lastEdgeTime = now ∧
      (edgeEffect now s).pending = true ∧ ∃ p : Proto, (edgeEffect now s).tag = p.tag) := by
  have phase := (timeoutPhase_kept now s).lastEventTime
  obtain ⟨-, e⟩ | ⟨-, -, e⟩ | ⟨hp, -, e⟩ := edgeEffect_cases now s <;> rw [e]
  · exact .inl rfl
  · exact .inl phase
  · obtain h | ⟨h, hpend, htag⟩ := fanOut_lastEventTime (nextDuration now (timeoutPhase now s)).1
      (timeoutPhase now s).cfg.machines (nextDuration now (timeoutPhase now s)).2
    · exact .inl (h.trans phase)
    · exact .inr ⟨hp, h, dispatchEdge_lastEdgeTime now _, hpend, htag⟩

/-- No operation writes a parameter (10_state.md R28). -/
theorem Writes.cfg {i : Instr} {s u : State} (h : Writes s i u) : u.cfg = s.cfg := by
  have phase : ∀ now, (timeoutPhase now s).cfg = s.cfg := fun now => (timeoutPhase_kept now s).cfg
  cases h <;> simp [phase]

/-- What an operation other than EDGE and RESET leaves alone: the two times, the running hash, the last pulse, the
buffers, the configuration and the requests (10_state.md R25, R26; 44_gate_read.md R182, R183). -/
structure KeptByPoll (s t : State) : Prop where
  lastEdgeTime : t.lastEdgeTime = s.lastEdgeTime
  lastEventTime : t.lastEventTime = s.lastEventTime
  hash : t.hash = s.hash
  hprev : t.hprev = s.hprev
  data : ∀ p, (t.machine p).data = (s.machine p).data
  cfg : t.cfg = s.cfg
  requests : t.requests = s.requests

theorem KeptByExpiry.poll {s t : State} (h : KeptByExpiry s t) : KeptByPoll s t :=
  ⟨h.lastEdgeTime, h.lastEventTime, h.hash, h.hprev, h.data, h.cfg, h.requests⟩

theorem KeptByPoll.trans {s t u : State} (a : KeptByPoll s t) (b : KeptByPoll t u) : KeptByPoll s u :=
  ⟨b.lastEdgeTime.trans a.lastEdgeTime, b.lastEventTime.trans a.lastEventTime, b.hash.trans a.hash,
    b.hprev.trans a.hprev, fun p => (b.data p).trans (a.data p), b.cfg.trans a.cfg, b.requests.trans a.requests⟩

theorem releaseStructured_kept (p : Proto) (s : State) : KeptByPoll s (releaseStructured p s) := by
  refine ⟨by simp, by simp, by simp, by simp, fun q => ?_, by simp, by simp⟩
  by_cases hq : q = p
  · subst hq; simp
  · rw [releaseStructured_machine_other s hq]

theorem releaseHash_kept (s : State) : KeptByPoll s (releaseHash s) :=
  ⟨rfl, rfl, rfl, rfl, fun p => by simp, rfl, rfl⟩

theorem answer_kept (s : State) (r : Response) : KeptByPoll s (s.answer r) :=
  ⟨rfl, rfl, rfl, rfl, fun p => by simp, rfl, rfl⟩

/-- READ and the queries keep what `KeptByPoll` lists (10_state.md R25, R26). -/
theorem Writes.kept_of_poll {i : Instr} {s u : State} (h : Writes s i u) (hedge : ∀ now, i ≠ .edge now)
    (hreset : ∀ now, i ≠ .reset now) : KeptByPoll s u := by
  have phase : ∀ now, KeptByPoll s (timeoutPhase now s) := fun now => (timeoutPhase_kept now s).poll
  cases h with
  | nop now => exact (KeptByExpiry.refl s).poll
  | edge now => exact absurd rfl (hedge now)
  | checkTimeout now => exact phase now
  | available now => exact phase now
  | receiving now => exact phase now
  | readNothing now => exact phase now
  | readStructured now p hp ht => exact (phase now).trans (releaseStructured_kept p _)
  | readHash now hp ht => exact (phase now).trans (releaseHash_kept _)
  | reset now => exact absurd rfl (hreset now)

/-- What an operation other than EDGE and RESET leaves alone. -/
theorem exec_kept_of_poll {i : Instr} {s t : State} (h : exec i s = .next t) (hedge : ∀ now, i ≠ .edge now)
    (hreset : ∀ now, i ≠ .reset now) : KeptByPoll s t := by
  obtain ⟨u, r, hw, rfl⟩ := exec_writes h
  exact (hw.kept_of_poll hedge hreset).trans (answer_kept u r)

/-! ### The invariants where nothing is pending -/

theorem claimed_structured {s : State} {p : Proto} :
    s.claimed (.structured p) = true ↔ (s.machine p).count.toNat = (s.params p).done := by
  simp [State.claimed]

/-- An armed structured machine of a legal configuration has legal parameters (00_scope.md R8). -/
theorem params_legal {s : State} (h : s.cfg.legal = true) {p : Proto} (ha : s.armed (.structured p)) :
    (s.params p).legal = true := legal_machine h ha

/-- The cursor value of `COMPLETE` fits the cursor (10_state.md R22). -/
theorem done_toNat {P : ProtoParams} (h : P.legal = true) : (BitVec.ofNat 8 P.done).toNat = P.done := by
  have := legal_bits h
  rw [BitVec.toNat_ofNat, done_eq]; omega

/-- `IDLE` is not `COMPLETE` (10_state.md R23). -/
theorem zero_lt_done (P : ProtoParams) : (0 : BitVec 8).toNat < P.done := by
  rw [done_eq]; exact Nat.succ_pos _

/-- The clauses of `State.Inv` in a state with nothing pending: no armed machine is claimed, so every structured
cursor is below `COMPLETE` and the hash sequence is open. -/
structure State.Quiet (s : State) : Prop where
  legal : s.cfg.legal = true
  pending : s.pending = false
  count_lt : ∀ p, s.armed (.structured p) → (s.machine p).count.toNat < (s.params p).done
  data_length : ∀ p, s.armed (.structured p) → (s.machine p).data.length = (s.params p).bytes
  hdone : s.armed .hash → s.hdone = false
  hcount_open : s.armed .hash → s.hcount.toNat ≤ s.cfg.hash.maxBlocks

theorem State.Quiet.not_claimed {s : State} (h : s.Quiet) {m : MachineId} (ha : s.armed m) :
    s.claimed m = false := by
  cases m with
  | structured p => exact decide_eq_false (h.count_lt p ha).ne
  | hash => exact h.hdone ha

theorem State.Quiet.inv {s : State} (h : s.Quiet) : s.Inv where
  legal := h.legal
  count_le p ha := (h.count_lt p ha).le
  hcount_le ha := (h.hcount_open ha).trans (Nat.le_succ _)
  data_length := h.data_length
  claimed_iff m ha := by simp [h.not_claimed ha, h.pending]
  owner_armed hp := by simp [h.pending] at hp
  checksum_holds p ha hc := by simp [h.not_claimed ha] at hc
  hdone_hcount ha hd := by simp [h.hdone ha] at hd
  hcount_open ha _ := h.hcount_open ha
  fallback_idle hp := by simp [h.pending] at hp

/-- An armed machine that does not own a pending claim is not claimed (10_state.md R38, I2). -/
theorem State.Inv.not_claimed {s : State} (h : s.Inv) {m : MachineId} (ha : s.armed m)
    (hn : ¬ (s.pending = true ∧ s.tag = m.tag)) : s.claimed m = false :=
  Bool.eq_false_iff.mpr fun hc => hn ((h.claimed_iff m ha).mp hc)

/-- A structured cursor of a machine that is not claimed is below `COMPLETE`. -/
theorem State.Inv.count_lt {s : State} (h : s.Inv) {p : Proto} (ha : s.armed (.structured p))
    (hn : ¬ (s.pending = true ∧ s.tag = p.tag)) : (s.machine p).count.toNat < (s.params p).done :=
  lt_of_le_of_ne (h.count_le p ha) (of_decide_eq_false (h.not_claimed ha hn))

theorem State.Inv.quiet {s : State} (h : s.Inv) (hp : s.pending = false) : s.Quiet :=
  have free : ∀ x : Tag, ¬ (s.pending = true ∧ s.tag = x) := fun x => by simp [hp]
  have hdone : s.armed .hash → s.hdone = false := fun ha => h.not_claimed ha (free _)
  { legal := h.legal
    pending := hp
    count_lt := fun _ ha => h.count_lt ha (free _)
    data_length := h.data_length
    hdone := hdone
    hcount_open := fun ha => h.hcount_open ha (hdone ha) }

/-! ### Writes that keep a state quiet, or claim from it -/

/-- The invariants do not speak of the two times, the running hash, the last pulse or the ports. -/
theorem State.Inv.unmentioned {s : State} (h : s.Inv) (edgeTime eventTime : Time) (hash : BitVec 32)
    (hprev : Duration) (requests : List RequestWord) (response : ResponseWord) :
    State.Inv { s with lastEdgeTime := edgeTime, lastEventTime := eventTime, hash := hash, hprev := hprev,
                       requests := requests, response := response } :=
  ⟨h.legal, h.count_le, h.hcount_le, h.data_length, h.claimed_iff, h.owner_armed, h.checksum_holds,
    h.hdone_hcount, h.hcount_open, h.fallback_idle⟩

theorem State.Inv.answer {s : State} (h : s.Inv) (r : Response) : (s.answer r).Inv := h.unmentioned ..

theorem State.Inv.takeRequest {s : State} (h : s.Inv) : s.takeRequest.Inv := h.unmentioned ..

theorem State.Inv.nextDuration {s : State} (h : s.Inv) (now : Time) : (nextDuration now s).2.Inv := h.unmentioned ..

/-- A structured machine's registers may be written below `COMPLETE`. -/
theorem State.Quiet.setMachine {s : State} (h : s.Quiet) {p : Proto} {m : FrameMachine}
    (hc : m.count.toNat < (s.params p).done) (hd : m.data.length = (s.machine p).data.length) :
    (s.setMachine p m).Quiet where
  legal := by simpa using h.legal
  pending := by simpa using h.pending
  count_lt q ha := by
    simp only [State.armed, setMachine_cfg, setMachine_params] at ha ⊢
    by_cases hq : q = p
    · subst hq; simpa using hc
    · rw [setMachine_other s m hq]; exact h.count_lt q ha
  data_length q ha := by
    simp only [State.armed, setMachine_cfg, setMachine_params] at ha ⊢
    by_cases hq : q = p
    · subst hq; simpa [hd] using h.data_length q ha
    · rw [setMachine_other s m hq]; exact h.data_length q ha
  hdone ha := by simp only [State.armed, setMachine_cfg, setMachine_hdone] at ha ⊢; exact h.hdone ha
  hcount_open ha := by
    simp only [State.armed, setMachine_cfg, setMachine_hcount] at ha ⊢; exact h.hcount_open ha

/-- An open hash sequence may be written. -/
theorem State.Quiet.setHash {s : State} (h : s.Quiet) {hcount : BitVec 8} (hash : BitVec 32) (hprev : Duration)
    (hc : hcount.toNat ≤ s.cfg.hash.maxBlocks) :
    State.Quiet { s with hcount := hcount, hash := hash, hprev := hprev } :=
  ⟨h.legal, h.pending, h.count_lt, h.data_length, h.hdone, fun _ => hc⟩

/-- The hash machine may publish a sequence that has a pulse (43_hash_decoder.md R171). -/
theorem State.Quiet.publishHash {s : State} (h : s.Quiet) (ha : s.armed .hash) {hcount : BitVec 8}
    (hash : BitVec 32) (hprev : Duration) (h2 : 2 ≤ hcount.toNat)
    (hc : hcount.toNat ≤ s.cfg.hash.maxBlocks + 1) :
    (publishHash { s with hcount := hcount, hash := hash, hprev := hprev }).Inv :=
  have free : ∀ {p}, s.armed (.structured p) → s.claimed (.structured p) ≠ true := fun hp =>
    Bool.eq_false_iff.mp (h.not_claimed hp)
  { legal := h.legal
    count_le := fun p hp => (h.count_lt p hp).le
    hcount_le := fun _ => hc
    data_length := h.data_length
    claimed_iff := fun m hm => by
      cases m with
      | structured p => exact iff_of_false (free hm) fun ht => p.tag_ne_hash ht.2.symm
      | hash => exact iff_of_true rfl ⟨rfl, rfl⟩
    owner_armed := fun _ => ⟨.hash, ha, rfl⟩
    checksum_holds := fun _ hm hcl => absurd hcl (free hm)
    hdone_hcount := fun _ _ => h2
    hcount_open := fun _ hd => absurd hd (by simp)
    fallback_idle := fun _ ht => absurd rfl ht }

/-- A structured machine whose buffer has the frame's size and passes the checksum may claim
(41_protocol_machine.md R119, R121). -/
theorem State.Quiet.claim {s : State} (h : s.Quiet) {p : Proto} (ha : s.armed (.structured p))
    (hd : (s.machine p).data.length = (s.params p).bytes)
    (hk : (s.params p).checksum.holds (s.machine p).data = true) : (claim p s).Inv := by
  have armed : ∀ {m}, (Machine.claim p s).armed m ↔ s.armed m := by simp [State.armed]
  have count : ((Machine.claim p s).machine p).count.toNat = (s.params p).done := by
    rw [claim_machine_same]; exact done_toNat (params_legal h.legal ha)
  have hopen : s.armed .hash → (Machine.claim p s).hcount.toNat ≤ s.cfg.hash.maxBlocks := fun hh => by
    rw [claim_hcount]
    split
    · exact Nat.zero_le _
    · exact h.hcount_open hh
  have others : ∀ m, s.armed m → m ≠ .structured p → (Machine.claim p s).claimed m = false := fun m hm hne => by
    rw [← h.not_claimed hm]
    cases m with
    | structured q =>
      simp only [State.claimed, claim_machine_other s (fun e : q = p => hne (e ▸ rfl)), claim_params]
    | hash => exact claim_hdone p s
  exact
    { legal := by simpa using h.legal
      count_le := fun q hq => by
        rw [claim_params]
        by_cases e : q = p
        · subst e; exact count.le
        · rw [claim_machine_other s e]; exact (h.count_lt q (armed.mp hq)).le
      hcount_le := fun hh => by
        rw [claim_cfg]; exact (hopen (armed.mp hh)).trans (Nat.le_succ _)
      data_length := fun q hq => by
        rw [claim_params]
        by_cases e : q = p
        · subst e; simpa using hd
        · rw [claim_machine_other s e]; exact h.data_length q (armed.mp hq)
      claimed_iff := fun m hm => by
        rw [claim_pending, claim_tag]
        by_cases e : m = .structured p
        · subst e; exact iff_of_true (claimed_structured.mpr (by rw [count, claim_params])) ⟨rfl, rfl⟩
        · refine iff_of_false (by simp [others m (armed.mp hm) e]) fun ht => e ?_
          exact (MachineId.tag_injective (n := m) (m := .structured p) ht.2).symm
      owner_armed := fun _ => ⟨.structured p, armed.mpr ha, claim_tag p s⟩
      checksum_holds := fun q hq hc => by
        by_cases e : q = p
        · subst e; simpa using hk
        · simp [others (.structured q) (armed.mp hq) (fun x => e (MachineId.structured.inj x))] at hc
      hdone_hcount := fun hh hc => by
        rw [claim_hdone, h.hdone (armed.mp hh)] at hc; cases hc
      hcount_open := fun hh _ => by rw [claim_cfg]; exact hopen (armed.mp hh)
      fallback_idle := fun _ _ hf hh => by
        rw [claim_cfg] at hf
        rw [claim_hcount, if_pos (by simpa [hf, State.armed] using hh)] }

/-! ### The machines, the two loops and READ keep the invariants -/

/-- A structured machine's edge from a quiet state keeps the invariants (41_protocol_machine.md R123). -/
theorem State.Quiet.onEdge {s : State} (h : s.Quiet) {p : Proto} (ha : s.armed (.structured p)) (d : Duration) :
    (onEdge p d s).Inv := by
  have hl := params_legal h.legal ha
  have hlt := h.count_lt p ha
  have hlen := h.data_length p ha
  obtain ⟨m, e, hsize, hcursor⟩ | ⟨data, e, hclaim⟩ := onEdge_cases p d s hl <;> rw [e]
  · refine (h.setMachine ?_ hsize).inv
    obtain hc | hc | ⟨hc, ht⟩ := hcursor
    · rw [hc]; exact zero_lt_done _
    · rwa [hc]
    · rw [hc]; exact Nat.succ_lt_succ ht
  · have good : data.length = (s.params p).bytes ∧ (s.params p).checksum.holds data = true := by
      obtain ⟨rfl, hne⟩ | ⟨hlen', hk⟩ := hclaim
      · exact legal_holding hl hne
      · exact ⟨hlen'.trans hlen, hk⟩
    have stored : (s.setMachine p { s.machine p with data := data }).Quiet :=
      h.setMachine hlt (good.1.trans hlen.symm)
    exact stored.claim (by simpa [State.armed] using ha) (by simpa using good.1) (by simpa using good.2)

/-- The hash machine's edge from a quiet state keeps the invariants (43_hash_decoder.md R164 to R170). -/
theorem State.Quiet.onEdgeHash {s : State} (h : s.Quiet) (ha : s.armed .hash) (d : Duration) :
    (onEdgeHash d s).Inv := by
  obtain ⟨a, b, c, e, hle⟩ | ⟨a, b, c, e, h2, hle⟩ :=
    onEdgeHash_cases d s (legal_machine h.legal ha) (h.hcount_open ha) <;> rw [e]
  · exact (h.setHash b c hle).inv
  · exact h.publishHash ha b c h2 hle

theorem State.Quiet.onEdgeOf {s : State} (h : s.Quiet) {m : MachineId} (ha : s.armed m) (d : Duration) :
    (onEdgeOf d m s).Inv := by
  cases m with
  | structured p => exact h.onEdge ha d
  | hash => exact h.onEdgeHash ha d

/-- A machine's self-expiry from a quiet state keeps the invariants (41_protocol_machine.md R124,
43_hash_decoder.md R172). -/
theorem State.Quiet.checkTimeoutOf {s : State} (h : s.Quiet) {m : MachineId} (ha : s.armed m) (e16 : Duration) :
    (checkTimeoutOf e16 m s).Inv := by
  cases m with
  | structured p =>
    obtain e | e := checkTimeoutStructured_cases p e16 s <;> rw [Machine.checkTimeoutOf, e]
    · exact h.inv
    · exact (h.setMachine (m := { s.machine p with count := 0 }) (zero_lt_done _) rfl).inv
  | hash =>
    obtain e | ⟨e, h2⟩ := checkTimeoutHash_cases e16 s <;> rw [Machine.checkTimeoutOf, e]
    · exact h.inv
    · exact h.publishHash ha s.hash s.hprev h2 ((h.hcount_open ha).trans (Nat.le_succ _))

theorem State.Inv.timeoutPhase {s : State} (h : s.Inv) (now : Time) : (timeoutPhase now s).Inv :=
  (timeoutLoop_keeps (R := fun t => t.Inv ∧ t.cfg = s.cfg) (fun m t hm ⟨hi, hcfg⟩ hp =>
    ⟨(hi.quiet hp).checkTimeoutOf (show m ∈ t.cfg.machines from hcfg ▸ hm) _,
      (checkTimeoutOf_kept _ m t).cfg.trans hcfg⟩) s ⟨h, rfl⟩).1

theorem State.Inv.fanOut {s : State} (h : s.Inv) (d : Duration) : (fanOut d s.cfg.machines s).Inv :=
  (fanOut_keeps (R := fun t => t.Inv ∧ t.cfg = s.cfg) (fun m t hm ⟨hi, hcfg⟩ hp =>
    ⟨(hi.quiet hp).onEdgeOf (show m ∈ t.cfg.machines from hcfg ▸ hm) d,
      (onEdgeOf_cfg d m t).trans hcfg⟩) s ⟨h, rfl⟩).1

theorem State.Inv.edgeEffect {s : State} (h : s.Inv) (now : Time) : (edgeEffect now s).Inv := by
  have phase := h.timeoutPhase now
  obtain ⟨-, e⟩ | ⟨-, -, e⟩ | ⟨-, -, e⟩ := edgeEffect_cases now s <;> rw [e]
  · exact h
  · exact phase
  · exact (phase.nextDuration now).fanOut _

/-- The machine that the tag names while a claim is pending is armed (10_state.md R38, I2). -/
theorem State.Inv.owner {s : State} (h : s.Inv) (hp : s.pending = true) {m : MachineId} (ht : s.tag = m.tag) :
    s.armed m := by
  obtain ⟨n, hn, hnt⟩ := h.owner_armed hp
  exact MachineId.tag_injective (ht.symm.trans hnt) ▸ hn

/-- READ of a structured owner leaves nothing claimed (44_gate_read.md R182). -/
theorem State.Inv.releaseStructured {s : State} (h : s.Inv) {p : Proto} (ht : s.tag = p.tag) :
    (releaseStructured p s).Quiet := by
  have armed : ∀ {m}, (Machine.releaseStructured p s).armed m ↔ s.armed m := by simp [State.armed]
  have free : ∀ m : MachineId, m ≠ .structured p → ¬ (s.pending = true ∧ s.tag = m.tag) := fun m hm ho =>
    hm (MachineId.tag_injective (n := .structured p) (ho.2.symm.trans ht))
  have hdone : s.armed .hash → s.hdone = false := fun ha => h.not_claimed ha (free .hash (by simp))
  exact
    { legal := by simpa using h.legal
      pending := by simp
      count_lt := fun q ha => by
        rw [releaseStructured_params]
        by_cases e : q = p
        · subst e; rw [releaseStructured_machine_same]; exact zero_lt_done _
        · rw [releaseStructured_machine_other s e]
          exact h.count_lt (armed.mp ha) (free (.structured q) (fun x => e (MachineId.structured.inj x)))
      data_length := fun q ha => by
        rw [releaseStructured_params, (releaseStructured_kept p s).data q]
        exact h.data_length q (armed.mp ha)
      hdone := fun ha => by rw [releaseStructured_hdone]; exact hdone (armed.mp ha)
      hcount_open := fun ha => by
        rw [releaseStructured_hcount, releaseStructured_cfg]
        exact h.hcount_open (armed.mp ha) (hdone (armed.mp ha)) }

/-- READ of the hash machine leaves nothing claimed (44_gate_read.md R183). -/
theorem State.Inv.releaseHash {s : State} (h : s.Inv) (ht : s.tag = .hash) : (releaseHash s).Quiet where
  legal := h.legal
  pending := rfl
  count_lt p ha := h.count_lt (p := p) ha fun ho => p.tag_ne_hash (ho.2.symm.trans ht)
  data_length := h.data_length
  hdone _ := rfl
  hcount_open _ := Nat.zero_le _

/-- Under a legal configuration the reset values leave nothing claimed (10_state.md R39). -/
theorem resetBlock_quiet {s : State} (h : s.cfg.legal = true) : (resetBlock s).Quiet where
  legal := h
  pending := rfl
  count_lt p _ := by rw [resetBlock_machine]; exact zero_lt_done _
  data_length p _ := by rw [resetBlock_machine]; exact List.length_replicate
  hdone _ := rfl
  hcount_open _ := Nat.zero_le _

theorem Writes.inv {i : Instr} {s u : State} (h : Writes s i u) (hs : s.Inv) : u.Inv := by
  cases h with
  | nop now => exact hs
  | edge now => exact hs.edgeEffect now
  | checkTimeout now => exact hs.timeoutPhase now
  | available now => exact hs.timeoutPhase now
  | receiving now => exact hs.timeoutPhase now
  | readNothing now => exact hs.timeoutPhase now
  | readStructured now p hp ht => exact ((hs.timeoutPhase now).releaseStructured ht).inv
  | readHash now hp ht => exact ((hs.timeoutPhase now).releaseHash ht).inv
  | reset now => exact (resetBlock_quiet hs.legal).inv

/-- Every operation keeps the invariants (10_state.md R38). -/
theorem exec_keeps_inv {i : Instr} {s t : State} (hs : s.Inv) (h : exec i s = .next t) : t.Inv := by
  obtain ⟨u, r, hw, rfl⟩ := exec_writes h
  exact (hw.inv hs).answer r

/-! ### The cursor of one structured machine -/

/-- One edge leaves or increases a cursor, or sets it to 0 (41_protocol_machine.md R125). -/
theorem onEdge_count_mono {p : Proto} (d : Duration) {s : State} (hl : (s.params p).legal = true)
    (hc : (s.machine p).count.toNat ≤ (s.params p).done) :
    (s.machine p).count.toNat ≤ ((onEdge p d s).machine p).count.toNat ∨
      ((onEdge p d s).machine p).count = 0 := by
  obtain ⟨m, e, -, hcursor⟩ | ⟨data, e, -⟩ := onEdge_cases p d s hl <;> rw [e]
  · rw [setMachine_same]
    obtain h0 | hsame | ⟨hnext, -⟩ := hcursor
    · exact .inr h0
    · exact .inl (by rw [hsame])
    · exact .inl (by omega)
  · left
    simpa [done_toNat hl] using hc

/-- A dispatched edge leaves or increases a cursor, or sets it to 0: the fan-out offers the machine at most one edge. -/
theorem dispatchEdge_count_mono {p : Proto} (now : Time) {s : State} (hs : s.Inv) (ha : s.armed (.structured p)) :
    (s.machine p).count.toNat ≤ ((dispatchEdge now s).machine p).count.toNat ∨
      ((dispatchEdge now s).machine p).count = 0 := by
  unfold dispatchEdge
  obtain hsame | ⟨u, hcfg, hu, hedge⟩ := fanOut_machine_once p (nextDuration now s).1 (legal_nodup hs.legal)
    (nextDuration now s).2
  · exact .inl (by rw [hsame, nextDuration_state_machine])
  · rw [nextDuration_state_machine] at hu
    have params : u.params p = s.params p := by rw [params_eq, params_eq, hcfg, nextDuration_state_cfg]
    rw [hedge, ← hu]
    refine onEdge_count_mono _ ?_ ?_
    · rw [params]; exact params_legal hs.legal ha
    · rw [params, hu]; exact hs.count_le p ha

/-! ### The obligations -/

/-- Settles O49: a step is an operation on the state without its oldest request (`step_runs`), and every operation
keeps the invariants (`exec_keeps_inv`). -/
theorem stepKeepsInvariants : Obligations.StepKeepsInvariants := by
  intro s t hs h
  obtain ⟨i, hi⟩ := step_runs h
  exact exec_keeps_inv hs.takeRequest hi

/-- Settles O33: the three ways of `edgeEffect_cases`, and the timeout phase claims exactly when a hash sequence is
due. -/
theorem edgeClockMovesUnlessBlocked : Obligations.EdgeClockMovesUnlessBlocked := by
  intro now s t h
  obtain rfl := exec_edge_eq h
  rw [answer_lastEdgeTime]
  obtain ⟨hp, e⟩ | ⟨hp, hphase, e⟩ | ⟨hp, hphase, e⟩ := edgeEffect_cases now s <;> rw [e]
  · simp [hp]
  · have due := (timeoutPhase_pending_iff hp).mp hphase
    simp [hp, due, (timeoutPhase_kept now s).lastEdgeTime]
  · have notDue : ¬ s.hashDue (s.peekElapsed now) := fun due => by
      simp [(timeoutPhase_pending_iff hp).mpr due] at hphase
    simp [hp, notDue]

/-- Settles O47: each of the four operations is the timeout phase, after which READ may release a claim. -/
theorem pollSideFrame : Obligations.PollSideFrame := by
  intro now i s t hi h
  have kept : KeptByPoll s t :=
    exec_kept_of_poll h (by rintro n rfl; simp at hi) (by rintro n rfl; simp at hi)
  exact ⟨kept.lastEdgeTime, kept.lastEventTime, kept.hash, kept.hprev, kept.data, kept.cfg, kept.requests⟩

/-- Settles O50: the owner that the tag names is armed and claimed, and two claimed machines have the same tag. -/
theorem atMostOneMachineClaimed : Obligations.AtMostOneMachineClaimed := by
  intro s hs
  constructor
  · intro hp
    obtain ⟨m, ha, ht⟩ := hs.owner_armed hp
    refine ⟨m, ha, (hs.claimed_iff m ha).mpr ⟨hp, ht⟩, ht, fun n hn hc => ?_⟩
    exact MachineId.tag_injective (((hs.claimed_iff n hn).mp hc).2.symm.trans ht)
  · rintro ⟨m, ha, hc, -, -⟩
    exact ((hs.claimed_iff m ha).mp hc).1

/-- Settles O51, by the cases of `Writes`. -/
theorem configurationIsReadOnly : Obligations.ConfigurationIsReadOnly := by
  intro i s t h
  obtain ⟨u, r, hw, rfl⟩ := exec_writes h
  exact hw.cfg

/-- Settles O52: the timeout phase leaves a machine without self-expiry alone, and the fan-out offers it at most one
edge. -/
theorem cursorOnlyGrowsInFrame : Obligations.CursorOnlyGrowsInFrame := by
  intro p now s t hs ha hreq h
  obtain rfl := exec_edge_eq h
  rw [answer_machine]
  have phase := timeoutPhase_machine_of_not_required now hreq
  have armed : (timeoutPhase now s).armed (.structured p) := by
    rw [State.armed, (timeoutPhase_kept now s).cfg]; exact ha
  obtain ⟨-, e⟩ | ⟨-, -, e⟩ | ⟨-, -, e⟩ := edgeEffect_cases now s <;> rw [e]
  · exact .inl le_rfl
  · exact .inl (by rw [phase])
  · rw [← phase]
    exact dispatchEdge_count_mono now (hs.timeoutPhase now) armed

/-- Settles O54: only EDGE and RESET write `lastEventTime` at all, and EDGE writes it where a structured machine
claims. -/
theorem lastEventOnlyByStructuredClaim : Obligations.LastEventOnlyByStructuredClaim := by
  intro i s t hreset h hne
  by_cases hedge : ∃ now, i = .edge now
  · obtain ⟨now, rfl⟩ := hedge
    obtain rfl := exec_edge_eq h
    obtain hsame | ⟨hp, hevent, hclock, hpend, p, htag⟩ := edgeEffect_lastEventTime now s
    · exact absurd hsame hne
    · exact ⟨now, p, rfl, hevent, hclock, hpend, htag, hp⟩
  · exact absurd (exec_kept_of_poll h (not_exists.mp hedge) hreset).lastEventTime hne

/-- Settles O48: the reset state is what RESET leaves under the default configuration, which is legal. -/
theorem resetSatisfiesInvariants : Obligations.ResetSatisfiesInvariants :=
  (resetBlock_quiet (s := State.reset) (by decide)).inv

end Sys2Proof.Machine

/-! ## The memory family (spec/20_memory.md): a query repeated with the same `now`

R56 gives the reason: the first query "has already fired whatever could fire". So the development says when nothing
can fire at `now` (`State.Settled`), that the timeout phase leaves its state so, and that it changes nothing in such a
state. A query is the timeout phase with a response that does not depend on the response before it. -/

namespace Sys2Proof.Machine

/-! ### One machine's self-expiry, and the frame it leaves -/

/-- A machine in `IDLE` has no frame to abandon (spec/10_state.md R23, 41_protocol_machine.md R124). -/
theorem not_staleFrame_of_idle {s : State} {p : Proto} {e16 : Duration} (h : (s.machine p).count = 0) :
    ¬ s.staleFrame p e16 := by
  rintro ⟨-, hopen, -, -⟩
  simp [h] at hopen

/-- Staleness is read from the configuration and the cursor. -/
theorem staleFrame_congr {s t : State} {p : Proto} {e16 : Duration} (hcfg : t.cfg = s.cfg)
    (hm : t.machine p = s.machine p) : t.staleFrame p e16 ↔ s.staleFrame p e16 := by
  simp only [State.staleFrame, params_eq, hcfg, hm]

/-- A stale frame is abandoned (41_protocol_machine.md R124). -/
theorem checkTimeoutStructured_of_stale {p : Proto} {e16 : Duration} {s : State} (h : s.staleFrame p e16) :
    checkTimeoutStructured p e16 s = s.setMachine p { s.machine p with count := 0 } := by
  obtain ⟨-, hopen, hterm, hlimit⟩ := h
  simp [checkTimeoutStructured, State.inProgress, discardFrame, hopen, hterm, hlimit]

/-- A machine that requires timeout checking keeps a frame that is not stale. -/
theorem checkTimeoutStructured_of_not_stale {p : Proto} {e16 : Duration} {s : State}
    (hreq : (s.params p).reqTimeoutCheck = true) (h : ¬ s.staleFrame p e16) : checkTimeoutStructured p e16 s = s := by
  refine if_neg fun hexpires => h ?_
  simp only [State.inProgress, Bool.and_eq_true, decide_eq_true_eq] at hexpires
  obtain ⟨⟨hopen, hterm⟩, hlimit⟩ := hexpires
  exact ⟨hreq, hopen, hterm, hlimit⟩

/-- A self-expiry leaves the registers of a structured machine alone or sets its cursor to `IDLE`. -/
theorem checkTimeoutOf_machine_cases (e16 : Duration) (m : MachineId) (s : State) (p : Proto) :
    (checkTimeoutOf e16 m s).machine p = s.machine p ∨ ((checkTimeoutOf e16 m s).machine p).count = 0 := by
  cases m with
  | structured q =>
    obtain e | e := checkTimeoutStructured_cases q e16 s <;> rw [checkTimeoutOf, e]
    · exact .inl rfl
    · by_cases hq : p = q
      · subst hq; exact .inr (by simp)
      · exact .inl (setMachine_other s _ hq)
  | hash =>
    left
    obtain e | ⟨e, -⟩ := checkTimeoutHash_cases e16 s <;> rw [checkTimeoutOf, e]
    exact publishHash_machine s p

/-- No self-expiry makes a frame stale. -/
theorem checkTimeoutOf_keeps_not_stale {e16 : Duration} {p : Proto} (m : MachineId) {s : State}
    (h : ¬ s.staleFrame p e16) : ¬ (checkTimeoutOf e16 m s).staleFrame p e16 := by
  obtain hsame | hidle := checkTimeoutOf_machine_cases e16 m s p
  · rwa [staleFrame_congr (checkTimeoutOf_kept e16 m s).cfg hsame]
  · exact not_staleFrame_of_idle hidle

/-- After a machine's own self-expiry its frame is not stale. -/
theorem checkTimeoutOf_structured_not_stale (e16 : Duration) (p : Proto) (s : State) :
    ¬ (checkTimeoutOf e16 (.structured p) s).staleFrame p e16 := by
  by_cases h : s.staleFrame p e16
  · apply not_staleFrame_of_idle
    rw [checkTimeoutOf, checkTimeoutStructured_of_stale h, setMachine_same]
  · exact checkTimeoutOf_keeps_not_stale _ h

/-! ### The timeout phase fires whatever can fire -/

/-- Where the timeout phase claims nothing, it leaves no frame of its machines stale (spec/45_dispatch.md R192). -/
theorem timeoutLoop_not_stale {e16 : Duration} {p : Proto} {ms : List MachineId} {s : State}
    (hp : (timeoutLoop e16 ms s).pending = false) (hm : MachineId.structured p ∈ ms) :
    ¬ (timeoutLoop e16 ms s).staleFrame p e16 := by
  induction ms generalizing s with
  | nil => cases hm
  | cons m ms ih =>
    have hs : s.pending ≠ true := fun hs => by simp [timeoutLoop_pending hs, hs] at hp
    rw [timeoutLoop, if_neg hs] at hp ⊢
    obtain rfl | hm := List.mem_cons.mp hm
    · refine timeoutLoop_keeps (R := fun t => ¬ t.staleFrame p e16)
        (fun n _ _ ht _ => checkTimeoutOf_keeps_not_stale n ht) _ ?_
      split <;> rename_i hreq
      · exact checkTimeoutOf_structured_not_stale e16 p s
      · exact fun hstale => hreq hstale.1
    · exact ih hp hm

/-- No self-expiry can fire at `now`: a claim is pending, or no hash sequence is due and no armed machine's frame is
stale (45_dispatch.md R192). -/
def State.Settled (now : Time) (s : State) : Prop :=
  s.pending = true ∨
    (¬ s.hashDue (s.peekElapsed now) ∧
      ∀ p, s.armed (.structured p) → ¬ s.staleFrame p (s.peekElapsed now))

/-- The timeout phase has fired whatever could fire (spec/20_memory.md R56). -/
theorem timeoutPhase_settled (now : Time) (s : State) : (timeoutPhase now s).Settled now := by
  by_cases hphase : (timeoutPhase now s).pending = true
  · exact .inl hphase
  · have hs : s.pending = false := Bool.eq_false_iff.mpr fun h => hphase (by rwa [timeoutPhase_pending h])
    have kept := timeoutPhase_kept now s
    right
    rw [timeoutPhase_peekElapsed]
    constructor
    · rw [State.hashDue, State.armed, kept.cfg, kept.hcount]
      exact (timeoutPhase_pending_iff hs).not.mp hphase
    · intro p ha
      rw [State.armed, kept.cfg] at ha
      exact timeoutLoop_not_stale (Bool.eq_false_iff.mpr hphase) ha

/-- A timeout phase in which no machine's self-expiry changes the state changes nothing. -/
theorem timeoutLoop_of_fixed {e16 : Duration} {ms : List MachineId} {s : State}
    (h : ∀ m ∈ ms, requiresTimeoutCheck s.cfg m = true → checkTimeoutOf e16 m s = s) :
    timeoutLoop e16 ms s = s := by
  induction ms with
  | nil => rfl
  | cons m ms ih =>
    have hrest := ih fun n hn => h n (List.mem_cons_of_mem m hn)
    unfold timeoutLoop
    split_ifs with hp hreq
    · rfl
    · rw [h m List.mem_cons_self hreq, hrest]
    · exact hrest

/-- Where nothing can fire, the timeout phase changes nothing. -/
theorem State.Settled.timeoutPhase_eq {now : Time} {s : State} (h : s.Settled now) : timeoutPhase now s = s := by
  obtain hp | ⟨notDue, notStale⟩ := h
  · exact timeoutPhase_pending hp
  · refine timeoutLoop_of_fixed fun m hm hreq => ?_
    cases m with
    | structured p => exact checkTimeoutStructured_of_not_stale hreq (notStale p hm)
    | hash => exact if_neg fun due => notDue ⟨hm, due⟩

/-- What can fire does not depend on the response port (log 2). -/
theorem State.Settled.answer {now : Time} {s : State} (h : s.Settled now) (r : Response) :
    (s.answer r).Settled now := by
  simpa only [State.Settled, State.hashDue, State.staleFrame, State.armed, State.peekElapsed, State.elapsed,
    answer_pending, answer_cfg, answer_hcount, answer_params, answer_machine, answer_lastEdgeTime] using h

/-! ### The queries -/

/-- The state a query leaves: that of the timeout phase, with a response read from it (45_dispatch.md R195 to
R197). -/
def queryEffect (respond : State → Response) (now : Time) (s : State) : State :=
  (timeoutPhase now s).answer (respond (timeoutPhase now s))

/-- The response of RECEIVING after the timeout phase (45_dispatch.md R197). -/
def receivingResponse (now : Time) (s : State) : Response :=
  .ofFlag (if s.pending then false else s.receivingFlag (s.peekElapsed now))

theorem exec_available_eq (now : Time) (s : State) :
    exec (.available now) s = .next (queryEffect (fun u => .ofFlag u.pending) now s) := rfl

theorem exec_receiving_eq (now : Time) (s : State) :
    exec (.receiving now) s = .next (queryEffect (receivingResponse now) now s) := rfl

theorem exec_checkTimeout_eq (now : Time) (s : State) :
    exec (.checkTimeout now) s = .next (queryEffect (fun _ => .empty) now s) := rfl

/-- RECEIVING does not read the response port (45_dispatch.md R197; log 2). -/
theorem receivingResponse_answer (now : Time) (s : State) (r : Response) :
    receivingResponse now (s.answer r) = receivingResponse now s := rfl

/-- A query whose response does not depend on the one before it changes nothing when it is repeated. -/
theorem queryEffect_queryEffect {respond : State → Response} (h : ∀ u r, respond (u.answer r) = respond u)
    (now : Time) (s : State) :
    queryEffect respond now (queryEffect respond now s) = queryEffect respond now s := by
  have again := ((timeoutPhase_settled now s).answer (respond (timeoutPhase now s))).timeoutPhase_eq
  calc queryEffect respond now (queryEffect respond now s)
      = (queryEffect respond now s).answer (respond (queryEffect respond now s)) := by
        rw [queryEffect, queryEffect, again]
    _ = queryEffect respond now s := by rw [queryEffect, h]; rfl

/-- An operation that is such a query answers the same state again. -/
theorem exec_query_again {i : Instr} {now : Time} {respond : State → Response}
    (hexec : ∀ s, exec i s = .next (queryEffect respond now s)) (h : ∀ u r, respond (u.answer r) = respond u)
    {s t : State} (ht : exec i s = .next t) : exec i t = .next t := by
  obtain rfl : queryEffect respond now s = t := Host.Outcome.next.inj ((hexec s).symm.trans ht)
  rw [hexec, queryEffect_queryEffect h]

/-- Settles O37: each of the three operations is a query whose response does not depend on the one before it. -/
theorem queriesAreIdempotent : Obligations.QueriesAreIdempotent := by
  intro now s t
  exact ⟨exec_query_again (exec_available_eq now) fun _ _ => rfl,
    exec_query_again (exec_receiving_eq now) (receivingResponse_answer now),
    exec_query_again (exec_checkTimeout_eq now) fun _ _ => rfl⟩

end Sys2Proof.Machine

/-! ## The encoding family (spec/30_encoding.md): request words, and a whole signal from its edges to its READ

The first part says once when a word decodes to an operation (`decode_eq_ok_iff`) and when it is an error
(`decode_eq_error_iff`): an operation's word is its two fields. The second part follows one armed structured machine
through a signal. `received` is the buffer after the first data bits, and equals the frame the durations spell;
`InSlot` is the state between two edges of a signal, `Concluded` the state after the last one, and READ closes it. -/

namespace Sys2Proof

/-! ### When a request word decodes -/

/-- A word decodes to the operation whose two fields it carries (30_encoding.md R70, R71). -/
theorem decode_eq_ok_iff {w : RequestWord} {i : Instr} :
    decode w = .ok i ↔ requestOp w = i.opCode ∧ requestNow w = i.now := by
  constructor
  · intro h
    unfold decode at h
    split_ifs at h <;> cases h <;> exact ⟨‹_›, rfl⟩
  · rintro ⟨hop, hnow⟩
    cases i <;> simp only [Instr.opCode, Instr.now] at hop hnow <;> simp [decode, hop, hnow]

/-- Op code 0b110 is the one without a meaning: the other seven are those of 30_encoding.md R70 (R74). -/
theorem decode_eq_error_iff {w : RequestWord} : decode w = .error .reservedOp ↔ requestOp w = 0b110#3 := by
  constructor
  · intro h
    unfold decode at h
    split_ifs at h
    bv_omega
  · intro h
    simp [decode, h]

/-- Settles O2: the word of an operation has the operation's two fields. -/
theorem decodeOfEncode : Obligations.DecodeOfEncode := fun _ =>
  decode_eq_ok_iff.mpr ⟨requestOp_requestWord _ _, requestNow_requestWord _ _⟩

/-- Settles O3: a word is its two fields, and they are those of the operation it decodes to. -/
theorem encodeOfDecode : Obligations.EncodeOfDecode := by
  intro w i h
  obtain ⟨hop, hnow⟩ := decode_eq_ok_iff.mp h
  calc encode i = requestWord (requestOp w) (requestNow w) := by rw [hop, hnow, encode]
    _ = w := requestWord_fields w

/-- Settles O1: each word decodes by its op code. -/
theorem writtenWordsDecode : Obligations.WrittenWordsDecode := by
  refine ⟨?_, ?_, ?_, ?_, ?_, ?_, ?_, decode_eq_error_iff.mpr (by decide), ?_⟩ <;>
    exact decode_eq_ok_iff.mpr (by decide)

/-- A word is ill-formed exactly when its op code is the reserved one (30_encoding.md R74). -/
theorem wellFormed_eq_false_iff {w : RequestWord} :
    RequestWord.wellFormed w = false ↔ requestOp w = 0b110#3 := by
  simp [RequestWord.wellFormed, requestOp]

/-- A word with another op code than the reserved one has a meaning. -/
theorem exists_decode {w : RequestWord} (h : requestOp w ≠ 0b110#3) : ∃ i, decode w = .ok i := by
  cases hw : decode w with
  | ok i => exact ⟨i, rfl⟩
  | error e =>
    cases e
    exact absurd (decode_eq_error_iff.mp hw) h

/-- Settles O4: a step under a legal configuration gives a word that is an error the refusal of its error. -/
theorem reservedOpCodeRefused : Obligations.ReservedOpCodeRefused := by
  refine ⟨fun w => ⟨decode_eq_error_iff, wellFormed_eq_false_iff, exists_decode⟩, fun s hl hop => ?_⟩
  rw [Machine.step, if_pos hl, decode_eq_error_iff.mpr hop]
  rfl

end Sys2Proof

namespace Sys2Proof.Machine

/-! ### The buffer after the first data bits -/

/-- The number whose bit `r` is `f r`, for the `n` lowest bits: the sum in `byteOfBits`. -/
def bitSum (f : Nat → Bool) (n : Nat) : Nat := (List.range n).foldl (fun acc r => acc + (if f r then 2 ^ r else 0)) 0

theorem bitSum_succ (f : Nat → Bool) (n : Nat) : bitSum f (n + 1) = bitSum f n + if f n then 2 ^ n else 0 := by
  simp [bitSum, List.range_succ]

theorem bitSum_lt (f : Nat → Bool) (n : Nat) : bitSum f n < 2 ^ n := by
  induction n with
  | zero => simp [bitSum]
  | succ n ih =>
    rw [bitSum_succ, Nat.pow_succ]
    split <;> omega

theorem bitSum_testBit (f : Nat → Bool) {n r : Nat} (h : r < n) : (bitSum f n).testBit r = f r := by
  induction n with
  | zero => omega
  | succ n ih =>
    rw [bitSum_succ]
    by_cases hr : r = n
    · subst hr
      have top : (bitSum f r).testBit r = false := Nat.testBit_lt_two_pow (bitSum_lt f r)
      cases hf : f r
      · simpa using top
      · simpa [Nat.add_comm, Nat.testBit_two_pow_add_eq] using top
    · have hlt : r < n := by omega
      rw [← ih hlt]
      split
      · rw [Nat.add_comm, Nat.testBit_two_pow_add_gt hlt]
      · simp

/-- Bit `r` of the byte that `f` describes (20_memory.md R51). -/
theorem byteOfBits_getLsbD (f : Nat → Bool) {r : Nat} (h : r < 8) : (byteOfBits f).getLsbD r = f r := by
  rw [show byteOfBits f = BitVec.ofNat 8 (bitSum f 8) from rfl, BitVec.getLsbD_ofNat, bitSum_testBit f h]
  simp [h]

/-- The bit store shifts one byte and leaves the others alone (41_protocol_machine.md R117). -/
theorem byteAt_storeBit (one : Bool) (k : Nat) {data : List Byte} {j : Nat} (h : j < data.length) :
    byteAt (storeBit one (2 + k) data) j = if k / 8 = j then shiftBit one (byteAt data j) else byteAt data j := by
  have hk : 2 + k - 2 = k := by omega
  simp only [byteAt, storeBit, hk, List.getD_eq_getElem?_getD, List.getElem?_modify, List.getElem?_eq_getElem h]
  split <;> simp

/-- The buffer after the first `k` of the data durations `ds`, from `data` (41_protocol_machine.md R117): data bit `k`
is stored in slot `2 + k`. -/
def received (P : ProtoParams) (ds : List Duration) (data : List Byte) : Nat → List Byte
  | 0 => data
  | k + 1 => storeBit (isOne P (ds.getD k 0)) (2 + k) (received P ds data k)

@[simp] theorem received_length (P : ProtoParams) (ds : List Duration) (data : List Byte) (k : Nat) :
    (received P ds data k).length = data.length := by
  induction k with
  | zero => rfl
  | succ k ih => rw [received, storeBit_length, ih]

/-- Where data bit `i` stands after `k` bits: in byte `i / 8`, which it entered at the top, and one place lower for
each bit that entered the byte after it (20_memory.md R51, R52). -/
theorem received_getLsbD (P : ProtoParams) (ds : List Duration) {data : List Byte} {k : Nat}
    (hk : k ≤ 8 * data.length) {i : Nat} (hi : i < k) :
    (byteAt (received P ds data k) (i / 8)).getLsbD (8 - min 8 (k - 8 * (i / 8)) + i % 8) =
      isOne P (ds.getD i 0) := by
  induction k with
  | zero => omega
  | succ k ih =>
    rw [received, byteAt_storeBit _ _ (by rw [received_length]; omega)]
    by_cases hbyte : k / 8 = i / 8
    · rw [if_pos hbyte, shiftBit_getLsbD _ _ (by omega)]
      by_cases hnew : i = k
      · subst hnew
        rw [if_pos (by omega)]
      · rw [if_neg (by omega), ← ih (by omega) (by omega)]
        congr 1
        omega
    · rw [if_neg hbyte, ← ih (by omega) (by omega)]
      congr 1
      omega

/-- All the data bits of a frame leave the frame that the durations spell, whatever the buffer held before
(20_memory.md R52, R53). -/
theorem received_eq_frameOf {P : ProtoParams} (hl : P.legal = true) (ds : List Duration) {data : List Byte}
    (hd : data.length = P.bytes) : received P ds data P.bits = frameOf P ds := by
  have hbits := legal_bytes hl
  apply List.ext_getElem (by simp [frameOf, hd])
  intro j hj _
  have hj' : j < P.bytes := by simpa [hd] using hj
  apply BitVec.eq_of_getLsbD_eq
  intro r hr
  have stored := received_getLsbD P ds (data := data) (k := P.bits) (i := 8 * j + r) (by omega) (by omega)
  have hbyte : (8 * j + r) / 8 = j := by omega
  have hplace : 8 - min 8 (P.bits - 8 * j) + (8 * j + r) % 8 = r := by omega
  rw [hbyte, hplace, byteAt, List.getD_eq_getElem _ _ hj] at stored
  simpa [frameOf, byteOfBits_getLsbD _ hr] using stored

/-! ### One structured machine's edge, slot by slot -/

/-- A timeout arms a machine in `IDLE` (41_protocol_machine.md R111). -/
theorem onEdge_arm {p : Proto} {d : Duration} {s : State} (hc : (s.machine p).count.toNat = 0)
    (hd : (s.params p).limitTimeout ≤ d) : onEdge p d s = s.setMachine p { s.machine p with count := 1 } := by
  rw [onEdge, if_neg (by omega), classify_timeout hd]
  exact if_pos hc

/-- A lead opens the data slots (41_protocol_machine.md R116). -/
theorem onEdge_lead {p : Proto} {d : Duration} {s : State} (hl : (s.params p).legal = true)
    (hc : (s.machine p).count.toNat = 1) (h : (s.params p).limitLead ≤ d) (hd : d < (s.params p).limitTimeout) :
    onEdge p d s = s.setMachine p { s.machine p with count := 2 } := by
  obtain ⟨-, -, hholding, -⟩ := legal_limits hl
  rw [onEdge, if_neg (by rw [term_eq]; omega), hc, classify_lead hd (BitVec.le_trans hholding h) h]

/-- A holding signal (41_protocol_machine.md R114, R115). -/
theorem onEdge_hold {p : Proto} {d : Duration} {s : State} (hl : (s.params p).legal = true)
    (hc : (s.machine p).count.toNat = 1) (h : (s.params p).limitHolding ≤ d) (hd : d < (s.params p).limitLead) :
    onEdge p d s = onHold p s := by
  obtain ⟨-, -, -, hlead⟩ := legal_limits hl
  rw [onEdge, if_neg (by rw [term_eq]; omega), hc, classify_hold (BitVec.lt_trans hd hlead) h hd]

/-- A data slot before the terminal one (41_protocol_machine.md R118). -/
theorem onBit_of_lt_term {p : Proto} (one : Bool) {s : State} (h : (s.machine p).count.toNat < (s.params p).term) :
    onBit p one s = s.setMachine p
      { count := (s.machine p).count + 1
        data := storeBit one (s.machine p).count.toNat (s.machine p).data } := by
  simp [onBit, h]

/-- The terminal slot claims or discards (41_protocol_machine.md R119, R120). -/
theorem onBit_of_term {p : Proto} (one : Bool) {s : State} {data : List Byte}
    (h : (s.machine p).count.toNat = (s.params p).term)
    (hdata : data = storeBit one (s.machine p).count.toNat (s.machine p).data) :
    onBit p one s = if (s.params p).checksum.holds data = true
      then claim p (s.setMachine p { s.machine p with data := data })
      else s.setMachine p { count := 0, data := data } := by
  subst hdata
  simp [onBit, h, discardFrame]

/-! ### An edge where one structured machine is the only one armed -/

/-- An edge a duration after the last one measures that duration (40_edge_clock.md R101). -/
theorem peekElapsed_add (s : State) (d : Duration) : s.peekElapsed (s.lastEdgeTime + d.setWidth 32) = d := by
  have elapsed : s.elapsed (s.lastEdgeTime + d.setWidth 32) = d.setWidth 32 := by
    simp only [State.elapsed]; bv_omega
  apply BitVec.eq_of_toNat_eq
  rw [State.peekElapsed, elapsed, sat16_toNat, BitVec.toNat_setWidth]
  omega

/-- Where one structured machine is armed, nothing can fire unless its frame is stale (45_dispatch.md R192). -/
theorem settled_alone {p : Proto} {now : Time} {s : State} (alone : s.cfg.machines = [.structured p])
    (fresh : ¬ s.staleFrame p (s.peekElapsed now)) : s.Settled now := by
  refine .inr ⟨fun ⟨hash, _⟩ => ?_, fun q hq => ?_⟩
  · simp [State.armed, alone] at hash
  · obtain rfl : q = p := by simpa [State.armed, alone] using hq
    exact fresh

/-- With no frame to abandon, an edge is the machine's one transition, at the new Edge Clock (45_dispatch.md R190,
R202). -/
theorem exec_edge_alone {p : Proto} {now : Time} {s : State} (alone : s.cfg.machines = [.structured p])
    (hp : s.pending = false) (fresh : ¬ s.staleFrame p (s.peekElapsed now)) :
    exec (.edge now) s = .next ((onEdge p (s.peekElapsed now) (nextDuration now s).2).answer .empty) := by
  have settled := settled_alone alone fresh
  have effect : edgeEffect now s = onEdge p (s.peekElapsed now) (nextDuration now s).2 := by
    rw [edgeEffect, if_neg (by simp [hp]), settled.timeoutPhase_eq, if_neg (by simp [hp]), dispatchEdge, alone,
      fanOut, if_neg (by simp [hp]), fanOut]
    rfl
  show Host.Outcome.next _ = _
  rw [effect]

/-- The state between two edges of a signal that began in `s₀`: the cursor of machine `p` is `slot`, its buffer is
`data`, and the last edge came at `last`. -/
structure InSlot (s₀ : State) (p : Proto) (slot : Nat) (last : Time) (data : List Byte) (s : State) : Prop where
  cfg : s.cfg = s₀.cfg
  pending : s.pending = false
  lastEventTime : s.lastEventTime = s₀.lastEventTime
  lastEdgeTime : s.lastEdgeTime = last
  slot : (s.machine p).count.toNat = slot
  data : (s.machine p).data = data

/-- The state after the last edge of a signal that began in `s₀`: machine `p` holds `data` and has claimed it, or is in
`IDLE`. -/
structure Concluded (s₀ : State) (p : Proto) (claimed : Bool) (data : List Byte) (s : State) : Prop where
  cfg : s.cfg = s₀.cfg
  pending : s.pending = claimed
  data : (s.machine p).data = data
  owner : claimed = true → s.tag = p.tag
  idle : claimed = false → (s.machine p).count = 0

section Signal

variable {s₀ s : State} {p : Proto} {slot : Nat} {last now : Time} {data : List Byte} {d : Duration}

theorem InSlot.params (h : InSlot s₀ p slot last data s) : s.params p = s₀.params p := by
  rw [params_eq, h.cfg, params_eq]

/-- The Edge Clock moves and nothing else does (40_edge_clock.md R101). -/
theorem InSlot.nextDuration (h : InSlot s₀ p slot last data s) (now : Time) :
    InSlot s₀ p slot now data (nextDuration now s).2 :=
  ⟨h.cfg, h.pending, h.lastEventTime, rfl, by simpa using h.slot, by simpa using h.data⟩

/-- A machine that writes its registers stays in a slot. -/
theorem InSlot.setMachine (h : InSlot s₀ p slot last data s) (m : FrameMachine) (r : Response) :
    InSlot s₀ p m.count.toNat last m.data ((s.setMachine p m).answer r) :=
  ⟨by simp [h.cfg], by simp [h.pending], by simp [h.lastEventTime], by simp [h.lastEdgeTime], by simp, by simp⟩

/-- A discard ends the signal in `IDLE` (60_exceptions.md R230). -/
theorem InSlot.discard (h : InSlot s₀ p slot last data s) {m : FrameMachine} (hm : m.count = 0) (r : Response) :
    Concluded s₀ p false m.data ((s.setMachine p m).answer r) :=
  ⟨by simp [h.cfg], by simp [h.pending], by simp, by simp, fun _ => by simpa using hm⟩

/-- A claim ends the signal with the buffer it is made on (41_protocol_machine.md R121). -/
theorem InSlot.claim (h : InSlot s₀ p slot last data s) (m : FrameMachine) (r : Response) :
    Concluded s₀ p true m.data ((claim p (s.setMachine p m)).answer r) :=
  ⟨by simp [h.cfg], by simp, by simp, fun _ => by simp, by simp⟩

/-- The first edge of a signal: a timeout arms the machine, however long the silence (41_protocol_machine.md R111). -/
theorem exec_edge_first (alone : s.cfg.machines = [.structured p]) (hp : s.pending = false)
    (hc : (s.machine p).count = 0) (hd : (s.params p).limitTimeout ≤ s.peekElapsed now) :
    ∃ t, exec (.edge now) s = .next t ∧ InSlot s p 1 now (s.machine p).data t := by
  have start : InSlot s p 0 s.lastEdgeTime (s.machine p).data s := ⟨rfl, hp, rfl, rfl, by simp [hc], rfl⟩
  refine ⟨_, exec_edge_alone alone hp (not_staleFrame_of_idle hc), ?_⟩
  have moved := start.nextDuration now
  rw [onEdge_arm moved.slot (by simpa using hd)]
  simpa using moved.setMachine { (Machine.nextDuration now s).2.machine p with count := 1 } .empty

/-- A later edge of a signal, below the timeout, is the machine's transition on the duration since the last one
(45_dispatch.md R202). -/
theorem exec_edge_next (alone : s₀.cfg.machines = [.structured p]) (h : InSlot s₀ p slot last data s)
    (hd : d < (s₀.params p).limitTimeout) :
    ∃ u, InSlot s₀ p slot (last + d.setWidth 32) data u ∧
      exec (.edge (last + d.setWidth 32)) s = .next ((onEdge p d u).answer .empty) := by
  refine ⟨_, h.nextDuration _, ?_⟩
  have elapsed : s.peekElapsed (last + d.setWidth 32) = d := h.lastEdgeTime ▸ peekElapsed_add s d
  have fresh : ¬ s.staleFrame p d := by
    rintro ⟨-, -, -, hlimit⟩
    exact BitVec.not_lt.mpr hlimit (by rwa [h.params])
  rw [exec_edge_alone (by rw [h.cfg]; exact alone) h.pending (by rwa [elapsed]), elapsed]

/-- The lead edge (41_protocol_machine.md R116). -/
theorem exec_edge_lead (alone : s₀.cfg.machines = [.structured p]) (hl : (s₀.params p).legal = true)
    (h : InSlot s₀ p 1 last data s) (hlead : (s₀.params p).limitLead ≤ d) (hd : d < (s₀.params p).limitTimeout) :
    ∃ t, exec (.edge (last + d.setWidth 32)) s = .next t ∧ InSlot s₀ p 2 (last + d.setWidth 32) data t := by
  obtain ⟨u, hu, e⟩ := exec_edge_next alone h hd
  rw [← hu.params] at hl hlead hd
  rw [onEdge_lead hl hu.slot hlead hd] at e
  exact ⟨_, e, by simpa [hu.data] using hu.setMachine { u.machine p with count := 2 } .empty⟩

/-- The holding edge (41_protocol_machine.md R114, R115). -/
theorem exec_edge_hold (alone : s₀.cfg.machines = [.structured p]) (hl : (s₀.params p).legal = true)
    (h : InSlot s₀ p 1 last data s) (hhold : (s₀.params p).limitHolding ≤ d) (hd : d < (s₀.params p).limitLead) :
    ∃ t, exec (.edge (last + d.setWidth 32)) s = .next t ∧
      if last + d.setWidth 32 - s₀.lastEventTime < (s₀.params p).limitRepeat
      then Concluded s₀ p true (s₀.params p).holdingPayload t
      else Concluded s₀ p false data t := by
  obtain ⟨-, -, -, hlead⟩ := legal_limits hl
  obtain ⟨u, hu, e⟩ := exec_edge_next alone h (BitVec.lt_trans hd hlead)
  rw [← hu.params] at hl hhold hd
  rw [onEdge_hold hl hu.slot hhold hd] at e
  refine ⟨_, e, ?_⟩
  simp only [onHold, State.inWindow, hu.lastEdgeTime, hu.lastEventTime, hu.params, decide_eq_true_eq]
  split
  · exact hu.claim { u.machine p with data := (s₀.params p).holdingPayload } .empty
  · have := hu.discard (discardFrame_count .expiry (u.machine p)) .empty
    rwa [discardFrame_data, hu.data] at this

/-- A data edge before the terminal slot (41_protocol_machine.md R118). -/
theorem exec_edge_bit (alone : s₀.cfg.machines = [.structured p]) (hl : (s₀.params p).legal = true)
    (h : InSlot s₀ p slot last data s) (h2 : 2 ≤ slot) (hterm : slot < (s₀.params p).term)
    (hd : d < (s₀.params p).limitTimeout) :
    ∃ t, exec (.edge (last + d.setWidth 32)) s = .next t ∧
      InSlot s₀ p (slot + 1) (last + d.setWidth 32) (storeBit (isOne (s₀.params p) d) slot data) t := by
  obtain ⟨u, hu, e⟩ := exec_edge_next alone h hd
  have hcount := hu.slot
  rw [← hu.params] at hl hterm hd
  rw [onEdge_data (by omega) (by omega) hd, onBit_of_lt_term _ (by omega)] at e
  refine ⟨_, e, ?_⟩
  have := hu.setMachine { count := (u.machine p).count + 1, data := storeBit (isOne (s₀.params p) d) slot data } .empty
  rw [cursor_succ hl (by omega), hcount] at this
  simpa [hcount, hu.data, hu.params, isOne] using this

/-- The terminal data edge (41_protocol_machine.md R119, R120). -/
theorem exec_edge_terminal (alone : s₀.cfg.machines = [.structured p])
    (h : InSlot s₀ p (s₀.params p).term last data s) (h2 : 2 ≤ (s₀.params p).term)
    (hd : d < (s₀.params p).limitTimeout) {final : List Byte}
    (hfinal : final = storeBit (isOne (s₀.params p) d) (s₀.params p).term data) :
    ∃ t, exec (.edge (last + d.setWidth 32)) s = .next t ∧
      Concluded s₀ p ((s₀.params p).checksum.holds final) final t := by
  obtain ⟨u, hu, e⟩ := exec_edge_next alone h hd
  have hcount := hu.slot
  have hstored : final = storeBit (decide ((u.params p).limitLogic ≤ d)) (u.machine p).count.toNat
      (u.machine p).data := by rw [hfinal, hcount, hu.data, hu.params, isOne]
  rw [← hu.params] at h2 hd hcount
  rw [onEdge_data (by omega) (by omega) hd, onBit_of_term _ hcount hstored, hu.params] at e
  refine ⟨_, e, ?_⟩
  cases hk : (s₀.params p).checksum.holds final
  · exact hu.discard (m := ⟨0, final⟩) rfl .empty
  · exact hu.claim { u.machine p with data := final } .empty

/-! ### Sequences of operations -/

theorem runOps_cons {i : Instr} {is : List Instr} {t : State} (h : exec i s = .next t) :
    runOps (i :: is) s = runOps is t := by
  rw [runOps, h]

theorem runOps_append {is js : List Instr} {t : State} (h : runOps is s = .next t) :
    runOps (is ++ js) s = runOps js t := by
  induction is generalizing s with
  | nil => cases h; rfl
  | cons i is ih =>
    simp only [List.cons_append, runOps] at h ⊢
    cases he : exec i s with
    | next u => rw [he] at h; exact ih h
    | fault r => cases r
    | refused r => rw [he] at h; cases h

/-- The edges of the data slots from data bit `k` on leave the frame that the durations spell, claimed exactly if its
checksum holds (41_protocol_machine.md R117 to R121). -/
theorem runOps_dataEdges (alone : s₀.cfg.machines = [.structured p]) (hl : (s₀.params p).legal = true)
    {ds : List Duration} (hds : ds.length = (s₀.params p).bits) (hbytes : data.length = (s₀.params p).bytes)
    (hd : ∀ d ∈ ds, d < (s₀.params p).limitTimeout) {rest : List Duration} {k : Nat} (hrest : ds.drop k = rest)
    (hk : k < (s₀.params p).bits) (h : InSlot s₀ p (2 + k) last (received (s₀.params p) ds data k) s) :
    ∃ t, runOps ((edgeTimes last rest).map .edge) s = .next t ∧
      Concluded s₀ p ((s₀.params p).checksum.holds (frameOf (s₀.params p) ds)) (frameOf (s₀.params p) ds) t := by
  induction rest generalizing k last s with
  | nil => rw [List.drop_eq_nil_iff] at hrest; omega
  | cons d rest ih =>
    have hklen : k < ds.length := hds ▸ hk
    obtain ⟨rfl, htail⟩ := List.cons.inj ((List.drop_eq_getElem_cons hklen).symm.trans hrest)
    have hdk := hd _ (List.getElem_mem hklen)
    have stored : received (s₀.params p) ds data (k + 1) =
        storeBit (isOne (s₀.params p) ds[k]) (2 + k) (received (s₀.params p) ds data k) := by
      rw [received, List.getD_eq_getElem _ _ hklen]
    have hterm := term_eq (s₀.params p)
    by_cases hlast : k + 1 = (s₀.params p).bits
    · obtain rfl : rest = [] := by rw [← htail, List.drop_eq_nil_iff]; omega
      have hslot : 2 + k = (s₀.params p).term := by omega
      rw [hslot] at h stored
      rw [hlast, received_eq_frameOf hl ds hbytes] at stored
      obtain ⟨t, e, ht⟩ := exec_edge_terminal alone h (by omega) hdk stored
      exact ⟨t, runOps_cons e, ht⟩
    · obtain ⟨t, e, ht⟩ := exec_edge_bit alone hl h (by omega) (by omega) hdk
      rw [← stored] at ht
      obtain ⟨u, eu, hu⟩ := ih htail (by omega) ht
      exact ⟨u, (runOps_cons e).trans eu, hu⟩

/-! ### READ after a signal -/

/-- The response word of a structured result (44_gate_read.md R182, 30_encoding.md R73). -/
def resultWord (p : Proto) (P : ProtoParams) (data : List Byte) : ResponseWord :=
  1#1 ++ p.tag.code ++ 0#1 ++ P.address data ++ P.command data

theorem structuredResult_word (p : Proto) (s : State) :
    (structuredResult p s).word = resultWord p (s.params p) (s.machine p).data := rfl

/-- READ of a structured owner releases it (44_gate_read.md R182). -/
theorem readClaim_structured (hp : s.pending = true) (ht : s.tag = p.tag) : readClaim s = readStructured p s := by
  cases p <;> simp [readClaim, hp, ht, Proto.tag]

/-- READ after a signal returns what was claimed, or nothing, and leaves the machine in `IDLE` (44_gate_read.md R181,
R182). -/
theorem Concluded.read {claimed : Bool} (alone : s₀.cfg.machines = [.structured p])
    (h : Concluded s₀ p claimed data s) (now : Time) :
    ∃ t, runOps [.read now] s = .next t ∧ t.pending = false ∧ (t.machine p).count = 0 ∧ (t.machine p).data = data ∧
      t.response = if claimed = true then resultWord p (s₀.params p) data else 0 := by
  have params : s.params p = s₀.params p := by rw [params_eq, h.cfg, params_eq]
  have settled : s.Settled now := by
    cases claimed with
    | true => exact .inl h.pending
    | false => exact settled_alone (h.cfg ▸ alone) (not_staleFrame_of_idle (h.idle rfl))
  have run : runOps [.read now] s = .next (readClaim s) := by
    rw [runOps_cons (t := readClaim (timeoutPhase now s)) rfl, settled.timeoutPhase_eq]
    rfl
  refine ⟨_, run, ?_⟩
  cases claimed with
  | true =>
    rw [readClaim_structured h.pending (h.owner rfl), readStructured]
    simp [structuredResult_word, h.data, params]
  | false =>
    rw [readClaim, if_neg (by simp [h.pending])]
    simp [h.pending, h.idle rfl, h.data]

end Signal

/-! ### The obligations about whole signals -/

/-- Settles O55: the first edge arms the machine, the lead opens the data slots, the data edges leave the frame they
spell and claim it if its checksum holds, and READ closes the signal. -/
theorem frameIsReadBack : Obligations.FrameIsReadBack := by
  intro p first lead ds now s hs alone hp hc hfirst hlead htimeout hds hbits
  have ha : s.armed (.structured p) := by simp [State.armed, alone]
  have hl := params_legal hs.legal ha
  obtain ⟨hpos, -, -⟩ := legal_bits hl
  obtain ⟨s₁, e₁, h₁⟩ := exec_edge_first alone hp hc hfirst
  obtain ⟨s₂, e₂, h₂⟩ := exec_edge_lead alone hl h₁ hlead htimeout
  obtain ⟨s₃, e₃, h₃⟩ := runOps_dataEdges alone hl hds (hs.data_length p ha) hbits (k := 0) rfl hpos h₂
  obtain ⟨t, e, hpending, hcount, hdata, hresponse⟩ := h₃.read alone now
  refine ⟨t, ?_, hpending, hcount, hdata, hresponse⟩
  exact ((runOps_cons e₁).trans (runOps_cons e₂)).trans ((runOps_append e₃).trans e)

/-- Settles O56: the first edge arms the machine, the holding edge claims the payload inside the repeat window, and
READ closes the signal. -/
theorem holdingSignalIsReadBack : Obligations.HoldingSignalIsReadBack := by
  intro p first hold now s hs alone hp hc hfirst hholding hlead
  have hl := params_legal hs.legal (p := p) (by simp [State.armed, alone])
  obtain ⟨s₁, e₁, h₁⟩ := exec_edge_first alone hp hc hfirst
  obtain ⟨s₂, e₂, h₂⟩ := exec_edge_hold alone hl h₁ hholding hlead
  have run : ∀ {t}, runOps [.read now] s₂ = .next t →
      runOps ((first :: edgeTimes first [hold]).map Instr.edge ++ [Instr.read now]) s = .next t :=
    fun e => (runOps_cons e₁).trans ((runOps_cons e₂).trans e)
  split at h₂ <;> rename_i hwindow
  · obtain ⟨t, e, hpending, hcount, -, hresponse⟩ := h₂.read alone now
    exact ⟨t, run e, hpending, hcount, by rw [if_pos hwindow]; exact hresponse⟩
  · obtain ⟨t, e, hpending, hcount, -, hresponse⟩ := h₂.read alone now
    exact ⟨t, run e, hpending, hcount, by rw [if_neg hwindow]; exact hresponse⟩

end Sys2Proof.Machine

/-! ## The Edge Clock family (spec/40_edge_clock.md): the elapsed time, and a saturated one

R101 and R103 are arithmetic: `sat16` of the elapsed time, in exact integers. R102 has two halves: a saturated duration
reaches every timeout limit (`peekElapsed_saturated`, `le_maxDuration`), and a duration at or above its limit is a
timeout of the machine in every slot (`onEdge_timeout`, `onEdgeHash_timeout_zero` and its two siblings). -/

namespace Sys2Proof.Machine

/-! ### The elapsed time -/

/-- The elapsed time in exact integers (00_scope.md R11). -/
theorem elapsed_toNat (s : State) (now : Time) :
    (s.elapsed now).toNat = (now.toNat + 2 ^ 32 - s.lastEdgeTime.toNat) % 2 ^ 32 := by
  rw [State.elapsed, BitVec.toNat_sub]
  omega

/-- The duration in exact integers (40_edge_clock.md R101, R103). -/
theorem peekElapsed_toNat (s : State) (now : Time) :
    (s.peekElapsed now).toNat = min 65535 ((now.toNat + 2 ^ 32 - s.lastEdgeTime.toNat) % 2 ^ 32) := by
  rw [State.peekElapsed, sat16_toNat, elapsed_toNat]

/-- `nextDuration` is `peekElapsed` with the Edge Clock moved (40_edge_clock.md R101, R103). -/
theorem nextDuration_eq (now : Time) (s : State) :
    nextDuration now s = (s.peekElapsed now, { s with lastEdgeTime := now }) := rfl

/-- Settles O9: both durations are the saturated elapsed time. -/
theorem edgeClockDuration : Obligations.EdgeClockDuration := by
  intro now s
  rw [nextDuration_eq]
  exact ⟨peekElapsed_toNat s now, rfl, peekElapsed_toNat s now⟩

/-! ### A saturated duration reaches every limit -/

/-- An elapsed time of 65535 or more saturates (00_scope.md R11). -/
theorem peekElapsed_saturated {s : State} {now : Time} (h : 65535 ≤ (now - s.lastEdgeTime).toNat) :
    s.peekElapsed now = 65535 := by
  apply BitVec.eq_of_toNat_eq
  rw [State.peekElapsed, sat16_toNat]
  exact min_eq_left h

/-- Every limit is a 16-bit quantity, so none lies above the longest duration (40_edge_clock.md R102). -/
theorem le_maxDuration (limit : Duration) : limit ≤ 65535 := by bv_omega

/-! ### A timeout, slot by slot -/

/-- A timeout arms a machine in `IDLE` and abandons the frame of a machine in any other slot
(41_protocol_machine.md R111). -/
theorem onEdge_timeout {p : Proto} {d : Duration} {s : State}
    (hc : (s.machine p).count.toNat ≤ (s.params p).term) (hd : (s.params p).limitTimeout ≤ d) :
    onEdge p d s = s.setMachine p { s.machine p with count := if (s.machine p).count = 0 then 1 else 0 } := by
  by_cases idle : (s.machine p).count = 0
  · rw [onEdge_arm (by simp [idle]) hd, if_pos idle]
  · have slot : (s.machine p).count.toNat ≠ 0 := fun h => idle (BitVec.eq_of_toNat_eq h)
    rw [onEdge, if_neg (by omega), classify_timeout hd, if_neg idle]
    exact if_neg slot

/-- An unclaimed cursor of an armed machine is in a slot up to `TERM_p` (10_state.md R23). -/
theorem State.Quiet.count_le_term {s : State} (h : s.Quiet) {p : Proto} (ha : s.armed (.structured p)) :
    (s.machine p).count.toNat ≤ (s.params p).term :=
  Nat.le_of_lt_succ (h.count_lt p ha)

section HashTimeout

variable {d : Duration} {s : State}

/-- A timeout arms an idle hash machine (43_hash_decoder.md R164). -/
theorem onEdgeHash_timeout_zero (hd : s.cfg.hash.timeout ≤ d) (hc : s.hcount = 0) :
    onEdgeHash d s = { s with hash := s.cfg.hash.basis, hcount := 1 } := by
  simp [onEdgeHash, hd, hc]

/-- A timeout leaves an armed hash machine without a pulse alone (43_hash_decoder.md R165). -/
theorem onEdgeHash_timeout_one (hd : s.cfg.hash.timeout ≤ d) (hc : s.hcount = 1) : onEdgeHash d s = s := by
  simp [onEdgeHash, hd, hc]

/-- A timeout publishes a hash sequence that has a pulse (43_hash_decoder.md R166). -/
theorem onEdgeHash_timeout_pulse (hd : s.cfg.hash.timeout ≤ d) (hc : 2 ≤ s.hcount.toNat) :
    onEdgeHash d s = publishHash s := by
  rw [onEdgeHash, if_pos hd, if_neg (by omega), if_neg (by omega)]

end HashTimeout

/-- Settles O10: the saturated duration is a timeout under any limits, and with nothing pending every structured cursor
is in a slot that takes one. -/
theorem saturatedDurationIsTimeout : Obligations.SaturatedDurationIsTimeout := by
  intro now s hs hp helapsed
  have saturated : (nextDuration now s).1 = 65535 := peekElapsed_saturated helapsed
  rw [saturated]
  refine ⟨fun p ha => ?_, fun _ => ⟨fun h0 => ?_, fun h1 => ?_, fun h2 => ?_⟩⟩
  · have slot := ((hs.nextDuration now).quiet hp).count_le_term ha
    rw [onEdge_timeout slot (le_maxDuration _), setMachine_same, nextDuration_state_machine]
  · exact onEdgeHash_timeout_zero (le_maxDuration _) h0
  · exact onEdgeHash_timeout_one (le_maxDuration _) h1
  · rw [onEdgeHash_timeout_pulse (s := (nextDuration now s).2) (le_maxDuration _) h2, publishHash_hdone]

end Sys2Proof.Machine

/-! ## The protocol machine family (spec/41_protocol_machine.md): one structured machine, slot by slot

What one edge does is said once per slot, under any parameters: `onEdge_timeout` (R111), `onEdge_idle` (R112),
`onEdge_invalidLead`, `onEdge_holdSlot` and `onEdge_leadSlot` (R113 to R116), `onEdge_bit` (R118) and `onEdge_terminal`
(R119, R120). A train of durations is then an induction over `feed`. -/

namespace Sys2Proof.Machine

/-! ### Claims -/

/-- A claim on a new buffer is the state of `claimedBy` (41_protocol_machine.md R121). -/
theorem claim_eq_claimedBy (p : Proto) (data : List Byte) (s : State) :
    claim p (s.setMachine p { s.machine p with data := data }) = claimedBy p data s := by
  rw [claim_setMachine, done_eq]
  simp [claimedBy]

/-- A claim overwrites the registers of its machine, so what they held before leaves no trace. -/
theorem claimedBy_setMachine (p : Proto) (data : List Byte) (s : State) (m : FrameMachine) :
    claimedBy p data (s.setMachine p m) = claimedBy p data s := by
  cases p <;> rfl

section Slots

variable {p : Proto} {d : Duration} {s : State}

/-! ### `IDLE` and the lead slot -/

/-- `IDLE` ignores a duration below the timeout limit (41_protocol_machine.md R112). -/
theorem onEdge_idle (hc : (s.machine p).count = 0) (hd : d < (s.params p).limitTimeout) : onEdge p d s = s := by
  rw [onEdge, hc]
  simp [classify_ignored hd]

/-- The lead slot takes an edge under any parameters: `TERM_p` is at least 1 (00_scope.md R7). -/
theorem not_term_lt_of_lead (hc : (s.machine p).count.toNat = 1) :
    ¬ (s.params p).term < (s.machine p).count.toNat := by
  rw [hc, term_eq]; omega

/-- An invalid lead is discarded (41_protocol_machine.md R113). -/
theorem onEdge_invalidLead (hc : (s.machine p).count.toNat = 1) (hd : d < (s.params p).limitTimeout)
    (h : d < (s.params p).limitHolding) : onEdge p d s = s.setMachine p { s.machine p with count := 0 } := by
  rw [onEdge, if_neg (not_term_lt_of_lead hc), hc, classify_invalidLead hd h]
  rfl

/-- A holding signal claims the payload inside the repeat window and is discarded outside it
(41_protocol_machine.md R114, R115). -/
theorem onEdge_holdSlot (hc : (s.machine p).count.toNat = 1) (hd : d < (s.params p).limitTimeout)
    (hholding : (s.params p).limitHolding ≤ d) (hlead : d < (s.params p).limitLead) :
    onEdge p d s = if s.lastEdgeTime - s.lastEventTime < (s.params p).limitRepeat
      then claimedBy p (s.params p).holdingPayload s
      else s.setMachine p { s.machine p with count := 0 } := by
  rw [onEdge, if_neg (not_term_lt_of_lead hc), hc, classify_hold hd hholding hlead]
  simp [onHold, State.inWindow, claim_eq_claimedBy, discardFrame]

/-- A normal lead opens the data slots (41_protocol_machine.md R116). -/
theorem onEdge_leadSlot (hc : (s.machine p).count.toNat = 1) (hd : d < (s.params p).limitTimeout)
    (hholding : (s.params p).limitHolding ≤ d) (hlead : (s.params p).limitLead ≤ d) :
    onEdge p d s = s.setMachine p { s.machine p with count := 2 } := by
  rw [onEdge, if_neg (not_term_lt_of_lead hc), hc, classify_lead hd hholding hlead]

/-! ### The data slots -/

/-- The bit store written out (41_protocol_machine.md R117). -/
theorem storeBit_isOne (P : ProtoParams) (d : Duration) (c : Nat) (data : List Byte) :
    storeBit (isOne P d) c data = data.modify ((c - 2) / 8)
      fun b => b >>> 1 ||| if P.limitLogic ≤ d then 0x80#8 else 0x00#8 := by
  have shift : shiftBit (isOne P d) = fun b : Byte => b >>> 1 ||| if P.limitLogic ≤ d then 0x80#8 else 0x00#8 := by
    funext b
    simp [shiftBit, isOne]
  rw [storeBit, shift]

/-- A data slot before the terminal one stores its bit and goes one slot on (41_protocol_machine.md R118). -/
theorem onEdge_bit (h2 : 2 ≤ (s.machine p).count.toNat) (hterm : (s.machine p).count.toNat < (s.params p).term)
    (hd : d < (s.params p).limitTimeout) :
    onEdge p d s = s.setMachine p
      { count := (s.machine p).count + 1
        data := storeBit (isOne (s.params p) d) (s.machine p).count.toNat (s.machine p).data } := by
  rw [onEdge_data h2 hterm.le hd]
  exact onBit_of_lt_term _ hterm

/-- The terminal slot stores the last bit, and claims if the checksum holds on what is then in the buffer
(41_protocol_machine.md R119, R120). -/
theorem onEdge_terminal (hpos : 1 ≤ (s.params p).bits) (hterm : (s.machine p).count.toNat = (s.params p).term)
    (hd : d < (s.params p).limitTimeout) {data : List Byte}
    (hdata : data = storeBit (isOne (s.params p) d) (s.params p).term (s.machine p).data) :
    onEdge p d s = if (s.params p).checksum.holds data = true then claimedBy p data s
      else s.setMachine p { count := 0, data := data } := by
  have h2 : 2 ≤ (s.machine p).count.toNat := by rw [hterm, term_eq]; omega
  rw [onEdge_data h2 hterm.le hd, ← claim_eq_claimedBy]
  exact onBit_of_term _ hterm (by rw [hterm]; exact hdata)

/-! ### Trains of durations -/

theorem feed_cons (ds : List Duration) : feed p (d :: ds) s = feed p ds (onEdge p d s) := rfl

theorem feed_concat (ds : List Duration) : feed p (ds ++ [d]) s = onEdge p d (feed p ds s) := by
  simp [feed]

/-- Before the terminal slot, the first `k` data durations leave the buffer that `received` describes and the cursor
`k` slots on (41_protocol_machine.md R117, R118). -/
theorem feed_take {ds : List Duration} {k : Nat} (hl : (s.params p).legal = true) (hc : (s.machine p).count = 2)
    (hds : ds.length = (s.params p).bits) (hd : ∀ d ∈ ds, d < (s.params p).limitTimeout)
    (hk : k < (s.params p).bits) :
    feed p (ds.take k) s = s.setMachine p
      { count := BitVec.ofNat 8 (2 + k), data := received (s.params p) ds (s.machine p).data k } := by
  obtain ⟨-, -, h248⟩ := legal_bits hl
  induction k with
  | zero =>
    have start : (⟨2, (s.machine p).data⟩ : FrameMachine) = s.machine p := by rw [← hc]
    exact (setMachine_self s p).symm.trans (congrArg (s.setMachine p) start.symm)
  | succ k ih =>
    have hlen : k < ds.length := by omega
    have slot : (BitVec.ofNat 8 (2 + k)).toNat = 2 + k := by rw [BitVec.toNat_ofNat]; omega
    have advance : BitVec.ofNat 8 (2 + (k + 1)) = BitVec.ofNat 8 (2 + k) + 1 := BitVec.ofNat_add (2 + k) 1
    have hterm : 2 + k < (s.params p).term := by rw [term_eq]; omega
    rw [List.take_succ_eq_append_getElem hlen, feed_concat, ih (by omega),
      onEdge_bit (by rw [setMachine_same, slot]; omega) (by rwa [setMachine_same, setMachine_params, slot])
        (by simpa using hd _ (List.getElem_mem hlen))]
    simp only [setMachine_same, setMachine_setMachine, setMachine_params, slot, advance, received,
      List.getD_eq_getElem _ _ hlen]

/-- All the data durations leave the frame they spell, claimed exactly if its checksum holds
(41_protocol_machine.md R117 to R121, 20_memory.md R53). -/
theorem feed_frame {ds : List Duration} (hl : (s.params p).legal = true) (hc : (s.machine p).count = 2)
    (hdata : (s.machine p).data.length = (s.params p).bytes) (hds : ds.length = (s.params p).bits)
    (hd : ∀ d ∈ ds, d < (s.params p).limitTimeout) :
    feed p ds s = if (s.params p).checksum.holds (frameOf (s.params p) ds) = true
      then claimedBy p (frameOf (s.params p) ds) s
      else s.setMachine p { count := 0, data := frameOf (s.params p) ds } := by
  obtain ⟨hpos, -, h248⟩ := legal_bits hl
  obtain ⟨k, hk⟩ : ∃ k, (s.params p).bits = k + 1 := ⟨(s.params p).bits - 1, by omega⟩
  have hlen : k < ds.length := by omega
  have hterm : (s.params p).term = 2 + k := by rw [term_eq]; omega
  have cut : ds = ds.take k ++ [ds[k]] := by
    rw [← List.take_succ_eq_append_getElem hlen, ← hk, ← hds, List.take_length]
  have last : frameOf (s.params p) ds =
      storeBit (isOne (s.params p) ds[k]) (s.params p).term (received (s.params p) ds (s.machine p).data k) := by
    rw [← received_eq_frameOf hl ds hdata, hk, received, List.getD_eq_getElem _ _ hlen, hterm]
  calc feed p ds s = onEdge p ds[k] (feed p (ds.take k) s) := by rw [← feed_concat, ← cut]
    _ = if (s.params p).checksum.holds (frameOf (s.params p) ds) = true
        then claimedBy p (frameOf (s.params p) ds) s
        else s.setMachine p { count := 0, data := frameOf (s.params p) ds } := by
      rw [feed_take hl hc hds hd (by omega), onEdge_terminal (data := frameOf (s.params p) ds)]
      · simp [claimedBy_setMachine]
      · rwa [setMachine_params]
      · rw [setMachine_same, setMachine_params, hterm, BitVec.toNat_ofNat]; omega
      · simpa using hd _ (List.getElem_mem hlen)
      · simpa using last

end Slots

/-! ### What is blocked while a claim is unread -/

/-- While a claim is unread, an operation other than READ and RESET leaves the state it found, its response aside
(41_protocol_machine.md R126, 45_dispatch.md R191, R192). -/
theorem Writes.eq_of_pending {i : Instr} {s u : State} (h : Writes s i u) (hp : s.pending = true)
    (hread : ∀ now, i ≠ .read now) (hreset : ∀ now, i ≠ .reset now) : u = s := by
  cases h with
  | nop now => rfl
  | edge now => exact if_pos hp
  | checkTimeout now => exact timeoutPhase_pending hp
  | available now => exact timeoutPhase_pending hp
  | receiving now => exact timeoutPhase_pending hp
  | readNothing now => exact absurd rfl (hread now)
  | readStructured now => exact absurd rfl (hread now)
  | readHash now => exact absurd rfl (hread now)
  | reset now => exact absurd rfl (hreset now)

/-! ### The obligations about one structured machine -/

/-- Settles O11: a timeout in `IDLE` and in any other slot (`onEdge_timeout`). -/
theorem timeoutInAnySlot : Obligations.TimeoutInAnySlot := fun _ _ _ => onEdge_timeout

/-- Settles O12: the one class of a shorter duration in `IDLE` is the ignored one. -/
theorem idleIgnoresShortDurations : Obligations.IdleIgnoresShortDurations := fun _ _ _ => onEdge_idle

/-- Settles O13: one lemma per class of the lead slot; the repeat window decides the holding signal. -/
theorem leadSlotTransitions : Obligations.LeadSlotTransitions := by
  intro p d s hc hd
  have slot : (s.machine p).count.toNat = 1 := by rw [hc]; rfl
  refine ⟨onEdge_invalidLead slot hd, fun hholding hlead hwindow => ?_, fun hholding hlead hwindow => ?_,
    onEdge_leadSlot slot hd⟩
  · rw [onEdge_holdSlot slot hd hholding hlead, if_pos hwindow]
  · rw [onEdge_holdSlot slot hd hholding hlead, if_neg (BitVec.not_lt.mpr hwindow)]

/-- Settles O14: the slot before `TERM_p = N_p + 1`, with the bit store written out. -/
theorem dataSlotStoresBit : Obligations.DataSlotStoresBit := by
  intro p d s h2 hterm hd
  rw [onEdge_bit h2 (by rwa [term_eq]) hd, storeBit_isOne]

/-- Settles O15: the last bit stored is bit `N_p - 1`, and the checksum decides. -/
theorem terminalSlotChecksum : Obligations.TerminalSlotChecksum := by
  intro p d s data hpos hcount hd hdata
  have stored : data = storeBit (isOne (s.params p) d) (s.params p).term (s.machine p).data := by
    rw [storeBit_isOne, term_eq, hdata]
    rfl
  rw [onEdge_terminal hpos (by rw [hcount, term_eq]) hd stored]
  exact ⟨fun holds => if_pos holds, fun fails => if_neg (by simp [fails])⟩

/-- Settles O16: an edge writes its own machine's registers, and a claim writes beside them the claim's own elements
and the hash cursor. -/
theorem otherMachinesStayArmed : Obligations.OtherMachinesStayArmed := by
  rintro p q d s t rfl
  obtain ⟨m, e⟩ | ⟨m, e⟩ := onEdge_shape p d s <;> rw [e]
  · exact ⟨setMachine_other s m, by simp, by simp, by simp, by simp, by simp, ⟨by simp, by simp⟩,
      fun _ _ => by simp, fun unclaimed claimed => by simp [unclaimed] at claimed⟩
  · exact ⟨fun hq => by rw [claim_machine_other _ hq, setMachine_other s m hq], by simp, by simp, by simp, by simp,
      by simp, ⟨by simp, by simp⟩, fun _ unclaimed => by simp at unclaimed, fun _ _ => by simp [claim_hcount]⟩

/-- Settles O17, by induction on the train: each duration leaves the state, and so the machine in `IDLE`. -/
theorem nothingDecodedWithoutSilence : Obligations.NothingDecodedWithoutSilence := by
  intro p ds s hc hds
  induction ds with
  | nil => rfl
  | cons d ds ih =>
    rw [feed_cons, onEdge_idle hc (hds d List.mem_cons_self)]
    exact ih fun x hx => hds x (List.mem_cons_of_mem d hx)

/-- Settles O18: the frame is in the buffer after the terminal slot, and its checksum decides. -/
theorem dataSlotsDecodeFrame : Obligations.DataSlotsDecodeFrame := by
  intro p ds s hl hc hdata hds hd
  rw [feed_frame hl hc hdata hds hd]
  exact ⟨fun holds => if_pos holds, fun fails => if_neg (by simp [fails])⟩

/-- Settles O53: nothing but the response is written. -/
theorem claimBlocksUntilRead : Obligations.ClaimBlocksUntilRead := by
  intro i s t hp hread hreset h
  obtain ⟨u, r, hw, rfl⟩ := exec_writes h
  rw [hw.eq_of_pending hp hread hreset]
  rfl

end Sys2Proof.Machine

/-! ## The hash decoder family (spec/43_hash_decoder.md): one pulse, a train of pulses, and silence

One edge below the timeout is said once per cursor: `onEdgeHash_idle` (R167), `onEdgeHash_first` (R168) and
`onEdgeHash_later` (R169, R170); the edges at or above it are `onEdgeHash_timeout_zero` and its two siblings. A train of
pulses up to the forced end has a closed form (`feedHash_eq`). Past it the cursor may wrap, so what two trains with the
same codes share is a fold over the codes alone (`feedHash_fingerprint`). -/

namespace Sys2Proof.Machine

/-! ### One edge below the timeout -/

/-- The state in which the pulse `d` is taken and nothing is published yet (43_hash_decoder.md R169). -/
def takePulse (d : Duration) (s : State) : State :=
  { s with
    hash := foldHash s.cfg.hash s.hash (compareCode s.cfg.hash s.hprev d)
    hprev := d
    hcount := s.hcount + 1 }

/-- The state in which the first pulse is `d` (43_hash_decoder.md R168). -/
def firstPulse (d : Duration) (s : State) : State := { s with hprev := d, hcount := 2 }

section Pulse

variable {d : Duration} {s : State}

/-- An idle hash machine ignores a duration below its timeout (43_hash_decoder.md R167). -/
theorem onEdgeHash_idle (hd : d < s.cfg.hash.timeout) (hc : s.hcount = 0) : onEdgeHash d s = s := by
  simp [onEdgeHash, BitVec.not_le.mpr hd, hc]

/-- The first pulse is recorded and not folded (43_hash_decoder.md R168). -/
theorem onEdgeHash_first (hd : d < s.cfg.hash.timeout) (hc : s.hcount = 1) :
    onEdgeHash d s = firstPulse d s := by
  simp [onEdgeHash, firstPulse, BitVec.not_le.mpr hd, hc]

/-- A later pulse is taken, and pulse number `HASH_MAX_BLOCKS` publishes (43_hash_decoder.md R169, R170). -/
theorem onEdgeHash_later (hd : d < s.cfg.hash.timeout) (hc : 2 ≤ s.hcount.toNat) :
    onEdgeHash d s =
      if s.hcount.toNat = s.cfg.hash.maxBlocks then publishHash (takePulse d s) else takePulse d s := by
  have number : (s.hcount + 1 - 1).toNat = s.hcount.toNat := by simp
  rw [onEdgeHash, if_neg (BitVec.not_le.mpr hd), if_neg (by omega), if_neg (by omega), laterPulse, number]
  rfl

end Pulse

/-- The fold in exact integers (43_hash_decoder.md R163). -/
theorem foldHash_toNat (H : HashParams) (hash code : BitVec 32) :
    (foldHash H hash code).toNat = ((hash.toNat * H.prime.toNat) % 2 ^ 32) ^^^ code.toNat := by
  rw [foldHash, BitVec.toNat_xor, BitVec.toNat_mul]

/-! ### A train of pulses up to the forced end -/

theorem feedHash_cons (d : Duration) (ds : List Duration) (s : State) :
    feedHash (d :: ds) s = feedHash ds (onEdgeHash d s) := rfl

theorem feedHash_concat (ds : List Duration) (d : Duration) (s : State) :
    feedHash (ds ++ [d]) s = onEdgeHash d (feedHash ds s) := by
  simp [feedHash]

/-- The last code compares the last two pulses (43_hash_decoder.md R162). -/
theorem codesFrom_concat (H : HashParams) (prev : Duration) (ds : List Duration) (d : Duration) :
    codesFrom H prev (ds ++ [d]) = codesFrom H prev ds ++ [compareCode H (ds.getLastD prev) d] := by
  induction ds generalizing prev with
  | nil => rfl
  | cons x xs ih => rw [List.cons_append, codesFrom, ih, codesFrom, List.cons_append, List.getLastD_cons]

/-- The state in which the pulses `ds` are taken, in closed form (43_hash_decoder.md R161, R169). -/
def takePulses (ds : List Duration) (s : State) : State :=
  { s with
    hash := (codesFrom s.cfg.hash s.hprev ds).foldl (foldHash s.cfg.hash) s.hash
    hprev := ds.getLastD s.hprev
    hcount := s.hcount + BitVec.ofNat 8 ds.length }

theorem takePulses_nil (s : State) : takePulses [] s = s := by
  simp [takePulses, codesFrom]

theorem takePulses_concat (ds : List Duration) (d : Duration) (s : State) :
    takePulses (ds ++ [d]) s = takePulse d (takePulses ds s) := by
  have advance : s.hcount + BitVec.ofNat 8 (ds.length + 1) = s.hcount + BitVec.ofNat 8 ds.length + 1 := by
    rw [BitVec.ofNat_add, BitVec.add_assoc]
    rfl
  simp [takePulses, takePulse, codesFrom_concat, advance]

/-- The cursor does not wrap while it stays within a byte. -/
theorem takePulses_hcount_toNat {ds : List Duration} {s : State} (h : s.hcount.toNat + ds.length < 2 ^ 8) :
    (takePulses ds s).hcount.toNat = s.hcount.toNat + ds.length := by
  rw [takePulses, BitVec.toNat_add, BitVec.toNat_ofNat]
  omega

/-- From an open sequence, the pulses up to the forced end are all taken, and are published exactly when the last of
them is number `HASH_MAX_BLOCKS` (43_hash_decoder.md R169, R170). -/
theorem feedHash_eq {ds : List Duration} {s : State} (hl : s.cfg.hash.legal = true) (hc : 2 ≤ s.hcount.toNat)
    (hopen : s.hcount.toNat ≤ s.cfg.hash.maxBlocks) (hds : ∀ d ∈ ds, d < s.cfg.hash.timeout)
    (hend : s.hcount.toNat + ds.length ≤ s.cfg.hash.maxBlocks + 1) :
    feedHash ds s = if s.hcount.toNat + ds.length = s.cfg.hash.maxBlocks + 1
      then publishHash (takePulses ds s) else takePulses ds s := by
  obtain ⟨-, -, h254⟩ := legal_hash hl
  induction ds using List.reverseRecOn with
  | nil => rw [takePulses_nil, if_neg (by simp; omega)]; rfl
  | append_singleton ds d ih =>
    simp only [List.length_append, List.length_singleton] at hend ⊢
    have taken : feedHash ds s = takePulses ds s := by
      rw [ih (fun x hx => hds x (List.mem_append_left _ hx)) (by omega), if_neg (by omega)]
    have cursor : (takePulses ds s).hcount.toNat = s.hcount.toNat + ds.length :=
      takePulses_hcount_toNat (by omega)
    have below : d < (takePulses ds s).cfg.hash.timeout := hds d (by simp)
    rw [feedHash_concat, taken, onEdgeHash_later below (by omega), cursor, takePulses_concat]
    exact if_congr (by rw [← Nat.add_assoc, Nat.add_right_cancel_iff]; rfl) rfl rfl

/-- The same from the first pulse on, with the pulses counted (43_hash_decoder.md R168 to R170). -/
theorem feedHash_cons_eq {first : Duration} {ds : List Duration} {s : State} (hl : s.cfg.hash.legal = true)
    (hc : s.hcount = 1) (hds : ∀ d ∈ first :: ds, d < s.cfg.hash.timeout)
    (hend : ds.length + 1 ≤ s.cfg.hash.maxBlocks) :
    feedHash (first :: ds) s = if ds.length + 1 = s.cfg.hash.maxBlocks
      then publishHash (takePulses ds (firstPulse first s)) else takePulses ds (firstPulse first s) := by
  obtain ⟨-, h2, -⟩ := legal_hash hl
  have cursor : (firstPulse first s).hcount.toNat = 2 := rfl
  have cfg : (firstPulse first s).cfg = s.cfg := rfl
  rw [feedHash_cons, onEdgeHash_first (hds first List.mem_cons_self) hc,
    feedHash_eq (s := firstPulse first s) hl (by omega) (by rwa [cfg, cursor])
      (fun x hx => hds x (List.mem_cons_of_mem first hx)) (by rw [cfg, cursor]; omega), cfg, cursor]
  exact if_congr (by omega) rfl rfl

/-! ### What a train of pulses leaves, read from its codes alone -/

/-- What READ and the arbiter see of the hash machine: the pair (43_hash_decoder.md R174) and the claim. -/
structure Fingerprint where
  hcount : BitVec 8
  hash : BitVec 32
  hdone : Bool

def State.fingerprint (s : State) : Fingerprint := ⟨s.hcount, s.hash, s.hdone⟩

/-- One pulse with the comparison code `code`, at any cursor but that of the first pulse. A cursor that has wrapped is
idle. -/
def Fingerprint.take (H : HashParams) (f : Fingerprint) (code : BitVec 32) : Fingerprint :=
  if f.hcount = 0 then f
  else ⟨f.hcount + 1, foldHash H f.hash code, f.hdone || decide (f.hcount.toNat = H.maxBlocks)⟩

theorem Fingerprint.take_idle {H : HashParams} {f : Fingerprint} (code : BitVec 32) (h : f.hcount = 0) :
    f.take H code = f := if_pos h

/-- A later pulse takes its comparison code (43_hash_decoder.md R169, R170). -/
theorem onEdgeHash_later_fingerprint {d : Duration} {s : State} (hd : d < s.cfg.hash.timeout)
    (hc : 2 ≤ s.hcount.toNat) :
    (onEdgeHash d s).fingerprint = s.fingerprint.take s.cfg.hash (compareCode s.cfg.hash s.hprev d) := by
  have idle : s.fingerprint.hcount ≠ 0 := by
    show s.hcount ≠ 0
    bv_omega
  rw [onEdgeHash_later hd hc, Fingerprint.take, if_neg idle]
  by_cases last : s.hcount.toNat = s.cfg.hash.maxBlocks <;> simp [last, State.fingerprint, takePulse]

/-- A later pulse is recorded (43_hash_decoder.md R169). -/
theorem onEdgeHash_later_hprev {d : Duration} {s : State} (hd : d < s.cfg.hash.timeout)
    (hc : 2 ≤ s.hcount.toNat) : (onEdgeHash d s).hprev = d := by
  rw [onEdgeHash_later hd hc]
  split <;> rfl

/-- A later pulse moves the cursor on, and so past the slot of the first pulse (43_hash_decoder.md R169). -/
theorem onEdgeHash_later_hcount {d : Duration} {s : State} (hd : d < s.cfg.hash.timeout)
    (hc : 2 ≤ s.hcount.toNat) : (onEdgeHash d s).hcount = s.hcount + 1 := by
  rw [onEdgeHash_later hd hc]
  split <;> rfl

/-- From any cursor past the first pulse, or idle, a train of pulses leaves the fold of its comparison codes: the
durations leave no other trace (43_hash_decoder.md R175). -/
theorem feedHash_fingerprint {ds : List Duration} {prev : Duration} {s : State} (hc : s.hcount ≠ 1)
    (hprev : s.hcount ≠ 0 → s.hprev = prev) (hds : ∀ d ∈ ds, d < s.cfg.hash.timeout) :
    (feedHash ds s).fingerprint =
      (codesFrom s.cfg.hash prev ds).foldl (Fingerprint.take s.cfg.hash) s.fingerprint := by
  induction ds generalizing s prev with
  | nil => rfl
  | cons d ds ih =>
    have hd := hds d List.mem_cons_self
    have hds := fun x hx => hds x (List.mem_cons_of_mem d hx)
    have hcfg : (onEdgeHash d s).cfg = s.cfg := onEdgeOf_cfg d .hash s
    rw [feedHash_cons, codesFrom, List.foldl_cons]
    by_cases idle : s.hcount = 0
    · rw [onEdgeHash_idle hd idle, Fingerprint.take_idle _ idle]
      exact ih hc (fun h => absurd idle h) hds
    · have later : 2 ≤ s.hcount.toNat := by bv_omega
      have next := onEdgeHash_later_hcount hd later
      rw [ih (prev := d) (by rw [next]; bv_omega) (fun _ => onEdgeHash_later_hprev hd later) (by rwa [hcfg]),
        hcfg, onEdgeHash_later_fingerprint hd later, hprev idle]

/-- The same from the first pulse on: it leaves the cursor, and its own duration to compare the second with
(43_hash_decoder.md R168, R175). -/
theorem feedHash_cons_fingerprint {d : Duration} {ds : List Duration} {s : State} (hc : s.hcount = 1)
    (hds : ∀ x ∈ d :: ds, x < s.cfg.hash.timeout) :
    (feedHash (d :: ds) s).fingerprint =
      (codesFrom s.cfg.hash d ds).foldl (Fingerprint.take s.cfg.hash) ⟨2, s.hash, s.hdone⟩ := by
  rw [feedHash_cons, onEdgeHash_first (hds d List.mem_cons_self) hc]
  exact feedHash_fingerprint (s := firstPulse d s) (show (2 : BitVec 8) ≠ 1 by decide) (fun _ => rfl)
    fun x hx => hds x (List.mem_cons_of_mem d hx)

/-! ### The owner of what the timeout phase claims -/

/-- One machine's self-expiry claims for the hash machine alone (43_hash_decoder.md R172). -/
theorem checkTimeoutOf_owner (e16 : Duration) (m : MachineId) {s : State} (hp : s.pending = false)
    (claimed : (checkTimeoutOf e16 m s).pending = true) :
    (checkTimeoutOf e16 m s).tag = .hash ∧ (checkTimeoutOf e16 m s).hdone = true := by
  cases m with
  | structured p => simp [checkTimeoutOf_structured_pending, hp] at claimed
  | hash =>
    rw [checkTimeoutOf] at claimed ⊢
    obtain e | ⟨e, -⟩ := checkTimeoutHash_cases e16 s
    · simp [e, hp] at claimed
    · simp [e]

/-- What the timeout phase claims belongs to the hash machine (45_dispatch.md R192). -/
theorem timeoutPhase_owner {now : Time} {s : State} (hp : s.pending = false)
    (claimed : (timeoutPhase now s).pending = true) :
    (timeoutPhase now s).tag = .hash ∧ (timeoutPhase now s).hdone = true :=
  timeoutLoop_keeps (R := fun t => t.pending = true → t.tag = .hash ∧ t.hdone = true)
    (fun m _ _ _ ht => checkTimeoutOf_owner _ m ht) s (fun h => by simp [hp] at h) claimed

/-! ### The obligations about the hash machine -/

/-- Settles O23: one lemma per cursor on each side of the timeout. -/
theorem hashEdgeTransitions : Obligations.HashEdgeTransitions := by
  refine fun d s => ⟨fun hd => ⟨onEdgeHash_timeout_zero hd, onEdgeHash_timeout_one hd, onEdgeHash_timeout_pulse hd⟩,
    fun hd => ⟨onEdgeHash_idle hd, onEdgeHash_first hd, fun hc _ _ => ?_⟩⟩
  refine ⟨foldHash s.cfg.hash s.hash (compareCode s.cfg.hash s.hprev d), foldHash_toNat .., fun notLast => ?_,
    fun last => ?_⟩
  · rw [onEdgeHash_later hd hc, if_neg notLast]
    rfl
  · rw [onEdgeHash_later hd hc, if_pos last]
    rfl

/-- Settles O24: the closed form of the train, with and without the forced end. -/
theorem hashFingerprintOfPulses : Obligations.HashFingerprintOfPulses := by
  intro first ds s hl hc hbasis hpending hdone hds hlen
  obtain ⟨-, -, h254⟩ := legal_hash hl
  have start : (firstPulse first s).hcount.toNat = 2 := rfl
  have cursor : (takePulses ds (firstPulse first s)).hcount.toNat = ds.length + 2 := by
    rw [takePulses_hcount_toNat (by omega), start, Nat.add_comm]
  have folded : (takePulses ds (firstPulse first s)).hash =
      (codesFrom s.cfg.hash first ds).foldl (foldHash s.cfg.hash) s.cfg.hash.basis := by
    rw [← hbasis]
    rfl
  have pending : (takePulses ds (firstPulse first s)).pending ≠ true := ne_true_of_eq_false hpending
  have published : (takePulses ds (firstPulse first s)).hdone ≠ true := ne_true_of_eq_false hdone
  rw [feedHash_cons_eq hl hc hds hlen]
  split <;> rename_i last
  · exact ⟨cursor, folded, rfl, iff_of_true rfl last, iff_of_true rfl last⟩
  · exact ⟨cursor, folded, rfl, iff_of_false pending last, iff_of_false published last⟩

/-- Settles O25: both fingerprints are the same fold of the same codes. -/
theorem sameRatiosSameFingerprint : Obligations.SameRatiosSameFingerprint := by
  intro d e ds es s t hcfg hs ht hhash hdone hds hes hcodes
  have same : (feedHash (d :: ds) s).fingerprint = (feedHash (e :: es) t).fingerprint := by
    rw [feedHash_cons_fingerprint hs hds, feedHash_cons_fingerprint ht (hcfg ▸ hes), hcodes, hcfg, hhash, hdone]
  exact ⟨congrArg Fingerprint.hcount same, congrArg Fingerprint.hash same, congrArg Fingerprint.hdone same⟩

/-- Settles O31: the timeout phase publishes, so EDGE leaves its state, which keeps the pair and the two times. -/
theorem silenceFoundByEdgeDropsIt : Obligations.SilenceFoundByEdgeDropsIt := by
  intro now s hp hdue
  have claimed := (timeoutPhase_pending_iff hp).mpr hdue
  obtain ⟨htag, hdone⟩ := timeoutPhase_owner hp claimed
  have kept := timeoutPhase_kept now s
  have dropped : edgeEffect now s = timeoutPhase now s := by simp [edgeEffect, hp, claimed]
  refine ⟨(timeoutPhase now s).answer Response.empty, ?_, claimed, htag, hdone, kept.hcount, kept.hash, kept.hprev,
    kept.lastEdgeTime, kept.lastEventTime⟩
  rw [← dropped]
  rfl

/-- Settles O22: at 1/3 the three factors are 3, 2 and 4. -/
theorem ternaryComparison : Obligations.TernaryComparison := by
  intro H prev new hnum hden
  simp only [compareCode, hnum, hden]
  refine ⟨fun shorter => if_pos shorter, fun notShorter longer => ?_, fun notShorter notLonger => ?_⟩
  · rw [if_neg (by omega), if_pos (by omega)]
  · rw [if_neg (by omega), if_neg (by omega)]

end Sys2Proof.Machine

/-! ## The READ family (spec/44_gate_read.md): what READ answers, and that it answers a claim once

READ is the timeout phase followed by `readClaim`. The development says which of its three answers `readClaim` gives
(`readClaim_nothing`, `readClaim_structured`, `readClaim_hash`), that under the invariants these are all
(`State.Inv.readClaim_answers`), when the phase hands it a claim (`timeoutPhase_claimed_iff`), and that it leaves no
claim and no sequence that could become one (`State.Inv.readClaim_not_due`). -/

namespace Sys2Proof.Machine

/-! ### The three answers -/

/-- The `valid` bit of the response word (spec/30_encoding.md R73). -/
theorem Response.word_valid (r : Response) : r.word.getLsbD 51 = r.valid :=
  calc r.word.getLsbD 51
      = (BitVec.ofBool r.valid ++ r.tag.code ++ BitVec.ofBool r.flag ++ r.address).getLsbD 19 := BitVec.getLsbD_append
    _ = (BitVec.ofBool r.valid ++ r.tag.code ++ BitVec.ofBool r.flag).getLsbD 3 := BitVec.getLsbD_append
    _ = (BitVec.ofBool r.valid ++ r.tag.code).getLsbD 2 := BitVec.getLsbD_append
    _ = (BitVec.ofBool r.valid).getLsbD 0 := BitVec.getLsbD_append
    _ = r.valid := by simp

/-- The response word of a hash result (44_gate_read.md R183, 43_hash_decoder.md R174). -/
def fingerprintWord (s : State) : ResponseWord := 1#1 ++ 3#2 ++ 0#1 ++ (s.hcount - 1).setWidth 16 ++ s.hash

theorem hashResult_word (s : State) : (hashResult s).word = fingerprintWord s := rfl

/-- No self-expiry touches the pair a hash result is read from. -/
theorem KeptByExpiry.fingerprintWord_eq {s t : State} (h : KeptByExpiry s t) :
    fingerprintWord t = fingerprintWord s := by
  rw [fingerprintWord, fingerprintWord, h.hcount, h.hash]

theorem exec_read_eq (now : Time) (s : State) : exec (.read now) s = .next (readClaim (timeoutPhase now s)) := rfl

/-- READ with nothing claimed (44_gate_read.md R181). -/
theorem readClaim_nothing {s : State} (hp : s.pending = false) : readClaim s = s.answer .empty := by
  simp [readClaim, hp]

/-- READ of the hash machine (44_gate_read.md R183). -/
theorem readClaim_hash {s : State} (hp : s.pending = true) (ht : s.tag = .hash) : readClaim s = readHash s := by
  simp [readClaim, hp, ht]

/-- Under the invariants a pending claim has an owner, so READ gives one of three answers (10_state.md R38,
44_gate_read.md R180). -/
theorem State.Inv.readClaim_answers {s : State} (h : s.Inv) :
    (s.pending = false ∧ readClaim s = s.answer .empty) ∨
    (s.pending = true ∧ ∃ p : Proto, s.tag = p.tag ∧ readClaim s = readStructured p s) ∨
    (s.pending = true ∧ s.tag = .hash ∧ readClaim s = readHash s) := by
  by_cases hp : s.pending = true
  · obtain ⟨m, -, ht⟩ := h.owner_armed hp
    cases m with
    | structured p => exact .inr (.inl ⟨hp, p, ht, readClaim_structured hp ht⟩)
    | hash => exact .inr (.inr ⟨hp, ht, readClaim_hash hp ht⟩)
  · have hp := Bool.eq_false_iff.mpr hp
    exact .inl ⟨hp, readClaim_nothing hp⟩

/-- The response is valid exactly when there was a claim to read. -/
theorem State.Inv.readClaim_valid_iff {s : State} (h : s.Inv) :
    (readClaim s).response.getLsbD 51 = true ↔ s.pending = true := by
  obtain ⟨hp, e⟩ | ⟨hp, p, -, e⟩ | ⟨hp, -, e⟩ := h.readClaim_answers <;> rw [e, hp]
  · simp
  · simp [readStructured, structuredResult, Response.word_valid]
  · simp [readHash, hashResult, Response.word_valid]

/-! ### Before and after READ -/

/-- READ finds a claim that was pending, or one that its own timeout phase makes (44_gate_read.md R180,
43_hash_decoder.md R172). -/
theorem timeoutPhase_claimed_iff (now : Time) (s : State) :
    (timeoutPhase now s).pending = true ↔ s.pending = true ∨ s.hashDue (s.peekElapsed now) := by
  by_cases hp : s.pending = true
  · simp [timeoutPhase_pending hp, hp]
  · rw [timeoutPhase_pending_iff (Bool.eq_false_iff.mpr hp), or_iff_right hp]

/-- An idle hash machine has no sequence that silence could end (43_hash_decoder.md R172). -/
theorem not_hashDue_of_idle {s : State} {e16 : Duration} (h : s.armed .hash → s.hcount = 0) : ¬ s.hashDue e16 := by
  rintro ⟨ha, hpulse, -⟩
  simp [h ha] at hpulse

/-- READ leaves no claim behind. -/
theorem State.Inv.readClaim_pending {s : State} (h : s.Inv) : (readClaim s).pending = false := by
  obtain ⟨hp, e⟩ | ⟨-, p, -, e⟩ | ⟨-, -, e⟩ := h.readClaim_answers <;> rw [e]
  · exact hp
  · simp [readStructured]
  · rfl

/-- With `HASH_FALLBACK_RESET`, a READ that consumed a claim leaves the hash machine idle: it owned the claim (R183),
or the structured claim had reset it (43_hash_decoder.md R173). -/
theorem State.Inv.readClaim_not_due {s : State} (h : s.Inv) (hp : s.pending = true)
    (hf : s.cfg.hashFallbackReset = true) (e16 : Duration) : ¬ (readClaim s).hashDue e16 := by
  apply not_hashDue_of_idle
  obtain ⟨hfree, -⟩ | ⟨-, p, ht, e⟩ | ⟨-, -, e⟩ := h.readClaim_answers
  · simp [hfree] at hp
  · rw [e]
    intro ha
    have idle := h.fallback_idle hp (ht ▸ p.tag_ne_hash) hf (by simpa [State.armed, readStructured] using ha)
    simpa [readStructured] using idle
  · rw [e]
    exact fun _ => rfl

/-- The buffer of the structured machine that owns a claim satisfies its checksum (10_state.md R38, I3). -/
theorem State.Inv.owner_checksum {s : State} (h : s.Inv) (hp : s.pending = true) {p : Proto} (ht : s.tag = p.tag) :
    (s.params p).checksum.holds (s.machine p).data = true :=
  have armed : s.armed (.structured p) := h.owner hp ht
  h.checksum_holds p armed ((h.claimed_iff _ armed).mpr ⟨hp, ht⟩)

/-! ### The obligations about READ -/

/-- Settles O41: the timeout phase does not run while a claim is pending, and READ releases the owner. -/
theorem readReturnsStructuredFrame : Obligations.ReadReturnsStructuredFrame := by
  intro p now s hp ht
  rw [exec_read_eq, timeoutPhase_pending hp, readClaim_structured hp ht]
  rfl

/-- Settles O42: the timeout phase does not run while a claim is pending, and READ releases the hash machine. -/
theorem readReturnsFingerprint : Obligations.ReadReturnsFingerprint := by
  intro now s hp ht
  rw [exec_read_eq, timeoutPhase_pending hp, readClaim_hash hp ht]
  rfl

/-- Settles O43: the answer with nothing claimed has the word 0. -/
theorem readWithNothingClaimed : Obligations.ReadWithNothingClaimed := by
  intro now s hp
  rw [exec_read_eq, readClaim_nothing hp, State.answer, Response.word_empty]

/-- Settles O44: the phase claims for the hash machine, and READ releases it. -/
theorem readFindsSilenceAndConsumes : Obligations.ReadFindsSilenceAndConsumes := by
  intro now s hp hdue
  have claimed := (timeoutPhase_pending_iff hp).mpr hdue
  obtain ⟨htag, -⟩ := timeoutPhase_owner hp claimed
  have kept := timeoutPhase_kept now s
  refine ⟨readHash (timeoutPhase now s), ?_, kept.fingerprintWord_eq, rfl, rfl, rfl, htag, kept.hash,
    kept.lastEdgeTime⟩
  rw [exec_read_eq, readClaim_hash claimed htag]

/-- Settles O45: READ answers data exactly when its phase leaves a claim; and having consumed one, it leaves nothing
claimed and nothing due, so the phase of the next READ claims nothing. -/
theorem readOnce : Obligations.ReadOnce := by
  intro now later s t hs h
  obtain rfl : readClaim (timeoutPhase now s) = t := Host.Outcome.next.inj h
  have phase := hs.timeoutPhase now
  refine ⟨phase.readClaim_valid_iff.trans (timeoutPhase_claimed_iff now s), fun hf hvalid => ?_⟩
  have notDue := phase.readClaim_not_due (phase.readClaim_valid_iff.mp hvalid)
    ((timeoutPhase_kept now s).cfg ▸ hf)
  have unclaimed : (timeoutPhase later (readClaim (timeoutPhase now s))).pending = false :=
    Bool.eq_false_iff.mpr fun claimed => notDue _ ((timeoutPhase_pending_iff phase.readClaim_pending).mp claimed)
  exact ⟨_, readWithNothingClaimed later _ unclaimed, rfl⟩

/-- Settles O46: the owner of a claim is a structured machine whose checksum holds or the hash machine, and the phase
before keeps the buffers and the hash machine's pair. -/
theorem readResultHasChecksum : Obligations.ReadResultHasChecksum := by
  intro now s t hs h hvalid
  obtain rfl : readClaim (timeoutPhase now s) = t := Host.Outcome.next.inj h
  have phase := hs.timeoutPhase now
  have kept := timeoutPhase_kept now s
  have claimed := phase.readClaim_valid_iff.mp hvalid
  obtain ⟨hp, -⟩ | ⟨-, p, ht, e⟩ | ⟨-, -, e⟩ := phase.readClaim_answers
  · simp [hp] at claimed
  · have params : (timeoutPhase now s).params p = s.params p := by rw [params_eq, params_eq, kept.cfg]
    have checksum := phase.owner_checksum claimed ht
    rw [params, kept.data] at checksum
    refine .inl ⟨p, checksum, ?_⟩
    rw [e, readStructured, answer_response, structuredResult_word, params, kept.data]
    rfl
  · rw [e]
    exact .inr kept.fingerprintWord_eq

end Sys2Proof.Machine

/-! ## The dispatch family (spec/45_dispatch.md): the timeout phase, the fan-out and the operations over them

`FramesExpired` says what the self-expiries of a list of machines leave where no hash sequence is due, and composes
over the list. The timeout phase is then that relation alone, or that relation up to the hash machine and a
publication. EDGE is the phase and the fan-out, and a configuration of one machine has a fan-out of one transition. -/

namespace Sys2Proof.Machine

/-! ### The stale frames the timeout phase abandons -/

/-- `t` is `s` with the stale frames of the self-expiring machines of `ms` sent to `IDLE`, and nothing else changed
(41_protocol_machine.md R124, 45_dispatch.md R192). -/
structure FramesExpired (e16 : Duration) (ms : List MachineId) (s t : State) : Prop where
  frame : ∃ nec pan, t = { s with nec := nec, pan := pan }
  abandoned : ∀ p, MachineId.structured p ∈ ms ∧ s.staleFrame p e16 →
    t.machine p = { s.machine p with count := 0 }
  kept : ∀ p, ¬ (MachineId.structured p ∈ ms ∧ s.staleFrame p e16) → t.machine p = s.machine p

section FramesExpired

variable {e16 : Duration} {ms ns : List MachineId} {s t u : State}

theorem FramesExpired.cfg (h : FramesExpired e16 ms s t) : t.cfg = s.cfg := by
  obtain ⟨_, _, rfl⟩ := h.frame
  rfl

theorem FramesExpired.hcount (h : FramesExpired e16 ms s t) : t.hcount = s.hcount := by
  obtain ⟨_, _, rfl⟩ := h.frame
  rfl

theorem FramesExpired.pending (h : FramesExpired e16 ms s t) : t.pending = s.pending := by
  obtain ⟨_, _, rfl⟩ := h.frame
  rfl

/-- Where no machine of the list has a stale frame, nothing is abandoned. -/
theorem FramesExpired.refl (h : ∀ p, MachineId.structured p ∈ ms → ¬ s.staleFrame p e16) :
    FramesExpired e16 ms s s :=
  ⟨⟨s.nec, s.pan, rfl⟩, fun p ⟨hm, hstale⟩ => absurd hstale (h p hm), fun _ _ => rfl⟩

/-- An abandoned frame is in `IDLE`, so a later machine of the list does not abandon it again. -/
theorem FramesExpired.append (a : FramesExpired e16 ms s t) (b : FramesExpired e16 ns t u) :
    FramesExpired e16 (ms ++ ns) s u where
  frame := by
    obtain ⟨_, _, rfl⟩ := a.frame
    obtain ⟨nec, pan, rfl⟩ := b.frame
    exact ⟨nec, pan, rfl⟩
  abandoned p := by
    rintro ⟨hm, hstale⟩
    by_cases hms : MachineId.structured p ∈ ms
    · have idle := a.abandoned p ⟨hms, hstale⟩
      rw [b.kept p fun ⟨_, again⟩ => not_staleFrame_of_idle (by rw [idle]) again, idle]
    · have same := a.kept p fun ⟨h, _⟩ => hms h
      have hns := (List.mem_append.mp hm).resolve_left hms
      rw [b.abandoned p ⟨hns, (staleFrame_congr a.cfg same).mpr hstale⟩, same]
  kept p := by
    intro hnot
    have same := a.kept p fun ⟨hm, hstale⟩ => hnot ⟨List.mem_append_left ns hm, hstale⟩
    rw [b.kept p fun ⟨hm, hstale⟩ =>
      hnot ⟨List.mem_append_right ms hm, (staleFrame_congr a.cfg same).mp hstale⟩, same]

/-- One structured machine's stale frame is abandoned. -/
theorem FramesExpired.setMachine {p : Proto} (h : s.staleFrame p e16) :
    FramesExpired e16 [.structured p] s (s.setMachine p { s.machine p with count := 0 }) where
  frame := by
    cases p
    · exact ⟨_, s.pan, rfl⟩
    · exact ⟨s.nec, _, rfl⟩
  abandoned q := by
    rintro ⟨hq, -⟩
    obtain rfl : q = p := by simpa using hq
    exact setMachine_same ..
  kept q := by
    intro hnot
    refine setMachine_other s _ ?_
    rintro rfl
    exact hnot ⟨List.mem_cons_self, h⟩

/-- One machine's turn in the timeout phase (45_dispatch.md R192). -/
theorem framesExpired_turn (m : MachineId)
    (notDue : m = .hash → ¬ (2 ≤ s.hcount.toNat ∧ s.cfg.hash.timeout ≤ e16)) :
    FramesExpired e16 [m] s (if requiresTimeoutCheck s.cfg m then checkTimeoutOf e16 m s else s) := by
  cases m with
  | structured p =>
    by_cases hstale : s.staleFrame p e16
    · rw [if_pos (show requiresTimeoutCheck s.cfg (.structured p) = true from hstale.1), checkTimeoutOf,
        checkTimeoutStructured_of_stale hstale]
      exact .setMachine hstale
    · have unchanged : FramesExpired e16 [.structured p] s s := by
        refine .refl fun q hq => ?_
        obtain rfl : q = p := by simpa using hq
        exact hstale
      split <;> rename_i hreq
      · rwa [checkTimeoutOf, checkTimeoutStructured_of_not_stale hreq hstale]
      · exact unchanged
  | hash =>
    rw [if_pos (show requiresTimeoutCheck s.cfg .hash = true from rfl), checkTimeoutOf, checkTimeoutHash,
      if_neg (notDue rfl)]
    exact .refl fun q hq => by simp at hq

/-- With no hash sequence due among its machines, the loop of the timeout phase abandons their stale frames. -/
theorem timeoutLoop_framesExpired (hp : s.pending = false)
    (notDue : MachineId.hash ∈ ms → ¬ (2 ≤ s.hcount.toNat ∧ s.cfg.hash.timeout ≤ e16)) :
    FramesExpired e16 ms s (timeoutLoop e16 ms s) := by
  induction ms generalizing s with
  | nil => exact .refl fun p hm => absurd hm List.not_mem_nil
  | cons m ms ih =>
    have turn : FramesExpired e16 [m] s _ := framesExpired_turn m fun e => notDue (by simp [e])
    rw [timeoutLoop, if_neg (by simp [hp])]
    refine turn.append (ih (turn.pending.trans hp) fun hm => ?_)
    rw [turn.hcount, turn.cfg]
    exact notDue (List.mem_cons_of_mem m hm)

end FramesExpired

/-- A due hash sequence is published when its machine's turn comes, and the machines after it have none
(43_hash_decoder.md R172, 45_dispatch.md R192). -/
theorem timeoutPhase_of_hashDue {now : Time} {before after : List MachineId} {s : State} (hp : s.pending = false)
    (armed : s.cfg.machines = before ++ .hash :: after) (notBefore : MachineId.hash ∉ before)
    (due : s.hashDue (s.peekElapsed now)) :
    ∃ t, FramesExpired (s.peekElapsed now) before s t ∧ timeoutPhase now s = publishHash t := by
  have expired := timeoutLoop_framesExpired (e16 := s.peekElapsed now) hp fun hm => absurd hm notBefore
  refine ⟨_, expired, ?_⟩
  obtain ⟨-, pulses, silent⟩ := due
  rw [← expired.hcount] at pulses
  rw [← expired.cfg] at silent
  have free := expired.pending.trans hp
  have turn : requiresTimeoutCheck (timeoutLoop (s.peekElapsed now) before s).cfg .hash = true := rfl
  rw [timeoutPhase, armed, timeoutLoop_append, if_neg (by simp [free]), timeoutLoop, if_neg (by simp [free]),
    if_pos turn, checkTimeoutOf, checkTimeoutHash, if_pos ⟨pulses, silent⟩,
    timeoutLoop_pending (publishHash_pending _)]

/-- Settles O26: where a sequence is due the phase ends at the hash machine, and otherwise it only abandons frames. -/
theorem timeoutPhaseEffect : Obligations.TimeoutPhaseEffect := by
  refine fun now s => ⟨timeoutPhase_pending, fun hp before after armed notBefore due => ?_, fun hp notDue => ?_⟩
  · obtain ⟨t, expired, e⟩ := timeoutPhase_of_hashDue hp armed notBefore due
    obtain ⟨nec, pan, frame⟩ := expired.frame
    refine ⟨nec, pan, by rw [e, frame]; rfl, fun p => ?_⟩
    rw [e, publishHash_machine]
    exact ⟨expired.abandoned p, expired.kept p⟩
  · have expired : FramesExpired _ _ s (timeoutPhase now s) :=
      timeoutLoop_framesExpired hp fun armed due => notDue ⟨armed, due⟩
    obtain ⟨nec, pan, frame⟩ := expired.frame
    exact ⟨nec, pan, frame, fun p => ⟨expired.abandoned p, expired.kept p⟩⟩

/-! ### The fan-out -/

/-- The fan-out over a list cut in two (45_dispatch.md R193). -/
theorem fanOut_append (d : Duration) (before after : List MachineId) (s : State) :
    fanOut d (before ++ after) s = fanOut d after (fanOut d before s) := by
  induction before generalizing s with
  | nil => rfl
  | cons m before ih =>
    rw [List.cons_append, fanOut, fanOut]
    split <;> rename_i hp
    · exact (fanOut_pending hp).symm
    · exact ih _

/-- With nothing pending the first machine is offered the edge. -/
theorem fanOut_cons {d : Duration} {m : MachineId} {ms : List MachineId} {s : State} (hp : s.pending = false) :
    fanOut d (m :: ms) s = fanOut d ms (onEdgeOf d m s) := by rw [fanOut, if_neg (by simp [hp])]

/-- Settles O27: the rest of the list runs from the state the machines before have left. -/
theorem fanOutStopsAtFirstClaim : Obligations.FanOutStopsAtFirstClaim := by
  intro d before after m s
  rw [fanOut_append]
  exact ⟨fanOut_pending, fanOut_cons⟩

/-! ### EDGE -/

theorem answer_empty (s : State) : s.answer .empty = { s with response := 0 } := by
  rw [State.answer, Response.word_empty]

/-- EDGE always has a next state, with a zero response (45_dispatch.md R190). -/
theorem exec_edge_effect (now : Time) (s : State) :
    exec (.edge now) s = .next { edgeEffect now s with response := 0 } := by
  rw [← answer_empty]
  rfl

/-- Settles O28: a blocked edge takes the first branch of `edgeEffect`. -/
theorem blockedEdgeWritesNothing : Obligations.BlockedEdgeWritesNothing := by
  intro now s hp
  rw [exec_edge_effect, edgeEffect, if_pos hp]

/-- The edge dispatched after the timeout phase is measured from the edge before: the phase does not move the Edge
Clock (40_edge_clock.md R103). -/
theorem dispatchEdge_timeoutPhase (now : Time) (s : State) :
    dispatchEdge now (timeoutPhase now s) =
      fanOut (s.peekElapsed now) s.cfg.machines { timeoutPhase now s with lastEdgeTime := now } := by
  rw [dispatchEdge, (timeoutPhase_kept now s).cfg, nextDuration_eq, timeoutPhase_peekElapsed]

/-- Settles O29: the edge is dropped or dispatched, as the phase leaves a claim or not. -/
theorem unblockedEdgeOrder : Obligations.UnblockedEdgeOrder := by
  intro now s hp
  rw [exec_edge_effect, edgeEffect, if_neg (by simp [hp])]
  refine ⟨fun claimed => ⟨by rw [if_pos claimed], (timeoutPhase_kept now s).lastEdgeTime⟩, fun free => ?_⟩
  rw [if_neg (by simp [free]), dispatchEdge_timeoutPhase]

/-! ### One armed machine -/

section Alone

variable {now : Time} {m : MachineId} {s : State}

/-- Where one machine is armed, the timeout phase is its self-expiry. -/
theorem timeoutPhase_alone (alone : s.cfg.machines = [m]) (hp : s.pending = false)
    (hreq : requiresTimeoutCheck s.cfg m = true) :
    timeoutPhase now s = checkTimeoutOf (s.peekElapsed now) m s := by
  rw [timeoutPhase, alone, timeoutLoop, if_neg (by simp [hp]), if_pos hreq, timeoutLoop]

/-- Where one machine is armed and its self-expiry claims nothing, an unblocked edge is the machine's one transition
after it (45_dispatch.md R202). -/
theorem exec_edge_of_alone (alone : s.cfg.machines = [m]) (hp : s.pending = false)
    (notDue : ¬ s.hashDue (s.peekElapsed now)) :
    exec (.edge now) s = .next
      { onEdgeOf (s.peekElapsed now) m { timeoutPhase now s with lastEdgeTime := now } with response := 0 } := by
  have free : (timeoutPhase now s).pending = false :=
    Bool.eq_false_iff.mpr ((timeoutPhase_pending_iff hp).not.mpr notDue)
  obtain ⟨-, dispatched⟩ := unblockedEdgeOrder now s hp
  rw [dispatched free, alone, fanOut_cons (s := { timeoutPhase now s with lastEdgeTime := now }) free, fanOut]

/-- Without the hash machine no sequence is due. -/
theorem not_hashDue_of_structured {p : Proto} {e16 : Duration} (alone : s.cfg.machines = [.structured p]) :
    ¬ s.hashDue e16 := by
  rintro ⟨armed, -, -⟩
  simp [State.armed, alone] at armed

/-- The hash machine alone settles where its sequence is not due. -/
theorem settled_hash_alone (alone : s.cfg.machines = [.hash]) (notDue : ¬ s.hashDue (s.peekElapsed now)) :
    s.Settled now :=
  .inr ⟨notDue, fun p armed => by simp [State.armed, alone] at armed⟩

end Alone

/-- Settles O30: with one machine the phase abandons its frame, publishes its sequence, or changes nothing. -/
theorem singleProtocolEdge : Obligations.SingleProtocolEdge := by
  refine fun now s hp =>
    ⟨fun p alone => ⟨fun stale => ?_, fun fresh => ?_⟩, fun alone => ⟨fun due => ?_, fun notDue => ?_⟩⟩
  · have phase : timeoutPhase now s = s.setMachine p { s.machine p with count := 0 } :=
      (timeoutPhase_alone alone hp stale.1).trans (checkTimeoutStructured_of_stale stale)
    rw [exec_edge_of_alone alone hp (not_hashDue_of_structured alone), phase]
    rfl
  · rw [exec_edge_of_alone alone hp (not_hashDue_of_structured alone), (settled_alone alone fresh).timeoutPhase_eq]
    rfl
  · have phase : timeoutPhase now s = publishHash s := (timeoutPhase_alone alone hp rfl).trans (if_pos due.2)
    obtain ⟨dropped, -⟩ := unblockedEdgeOrder now s hp
    obtain ⟨answer, -⟩ := dropped ((timeoutPhase_pending_iff hp).mpr due)
    rw [answer, phase]
    rfl
  · rw [exec_edge_of_alone alone hp notDue, (settled_hash_alone alone notDue).timeoutPhase_eq]
    rfl

/-! ### The queries, NOP and RESET -/

/-- Some armed machine is in progress and not stale (45_dispatch.md R197), structured or the hash machine. -/
theorem receivingFlag_iff (s : State) (e16 : Duration) :
    s.receivingFlag e16 = true ↔
      (∃ p, s.armed (.structured p) ∧ 1 ≤ (s.machine p).count.toNat ∧
        (s.machine p).count.toNat ≤ (s.params p).term ∧ e16 < (s.params p).limitTimeout) ∨
      (s.armed .hash ∧ 1 ≤ s.hcount.toNat ∧ s.hdone = false ∧ e16 < s.cfg.hash.timeout) := by
  simp only [State.receivingFlag, List.any_eq_true, Bool.and_eq_true, decide_eq_true_eq]
  constructor
  · rintro ⟨m, armed, busy, fresh⟩
    cases m with
    | structured p =>
      simp only [State.inProgress, Bool.and_eq_true, decide_eq_true_eq] at busy
      obtain ⟨hopen, hterm⟩ := busy
      exact .inl ⟨p, armed, hopen, hterm, fresh⟩
    | hash =>
      obtain ⟨hopen, hdone⟩ : 1 ≤ s.hcount.toNat ∧ s.hdone = false := by simpa [State.inProgress] using busy
      exact .inr ⟨armed, hopen, hdone, fresh⟩
  · rintro (⟨p, armed, hopen, hterm, fresh⟩ | ⟨armed, hopen, hdone, fresh⟩)
    · exact ⟨.structured p, armed, by simp [State.inProgress, hopen, hterm], fresh⟩
    · exact ⟨.hash, armed, by simp [State.inProgress, hopen, hdone], fresh⟩

/-- RECEIVING answers 1 exactly when nothing is pending and some machine is receiving (45_dispatch.md R197). -/
theorem exec_receiving_flag (now : Time) (s : State) :
    exec (.receiving now) s = .next { timeoutPhase now s with
      response := if (timeoutPhase now s).pending = false ∧
          (timeoutPhase now s).receivingFlag ((timeoutPhase now s).peekElapsed now) = true
        then 0x1000000000000#52 else 0 } := by
  rw [exec_receiving_eq, queryEffect, State.answer, receivingResponse, Response.word_ofFlag]
  cases hp : (timeoutPhase now s).pending <;> simp [hp]

/-- Settles O36: the flag is read from the state the phase has left. -/
theorem receivingAnswersInProgress : Obligations.ReceivingAnswersInProgress := by
  rintro now s u rfl
  simp only [← receivingFlag_iff]
  rw [exec_receiving_flag]
  exact ⟨decodeOfEncode (.receiving now), fun receiving => by rw [if_pos receiving],
    fun silent => by rw [if_neg silent]⟩

/-- Settles O34: CHECK_TIMEOUT is the query whose response is empty. -/
theorem checkTimeoutRunsPhase : Obligations.CheckTimeoutRunsPhase := by
  refine fun now s => ⟨decodeOfEncode (.checkTimeout now), ?_⟩
  rw [exec_checkTimeout_eq, queryEffect, answer_empty]

/-- Settles O35: AVAILABLE is the query whose response is the pending flag. -/
theorem availableAnswersPending : Obligations.AvailableAnswersPending := by
  refine fun now s => ⟨decodeOfEncode (.available now), ?_⟩
  rw [exec_available_eq, queryEffect, State.answer, Response.word_ofFlag]

/-- Settles O38: NOP puts the empty response on the port. -/
theorem nopWritesNothing : Obligations.NopWritesNothing := by
  refine fun now s => ⟨decodeOfEncode (.nop now), ?_⟩
  rw [← answer_empty]
  rfl

/-- RESET leaves the reset values with a zero response (45_dispatch.md R199). -/
theorem exec_reset_eq (now : Time) (s : State) :
    exec (.reset now) s = .next { resetBlock s with response := 0 } := by
  rw [← answer_empty]
  rfl

/-- Settles O39: `resetBlock` writes each element, and the default configuration is the one of `State.reset`. -/
theorem resetWritesEveryElement : Obligations.ResetWritesEveryElement := by
  refine ⟨fun now => decodeOfEncode (.reset now), exec_reset_eq, fun now s hcfg => ?_⟩
  rw [exec_reset_eq, resetBlock, hcfg]
  rfl

end Sys2Proof.Machine

/-! ## The exceptions family (spec/60_exceptions.md): no operation faults

The equations of `exec` name the state each operation answers, whatever the state before it; one is taken per
constructor of `Instr`. -/

namespace Sys2Proof.Machine

/-- NOP leaves the state it was given, with an empty response (45_dispatch.md R198). -/
theorem exec_nop_eq (now : Time) (s : State) : exec (.nop now) s = .next (s.answer .empty) := rfl

/-- Settles O8: each operation's equation gives the state it answers. -/
theorem everyOperationCompletes : Obligations.EveryOperationCompletes := by
  intro i s
  cases i with
  | nop now => exact ⟨_, exec_nop_eq now s⟩
  | edge now => exact ⟨_, exec_edge_effect now s⟩
  | checkTimeout now => exact ⟨_, exec_checkTimeout_eq now s⟩
  | available now => exact ⟨_, exec_available_eq now s⟩
  | receiving now => exact ⟨_, exec_receiving_eq now s⟩
  | read now => exact ⟨_, exec_read_eq now s⟩
  | reset now => exact ⟨_, exec_reset_eq now s⟩

end Sys2Proof.Machine

/-! ## The reset and hazards family (spec/70_reset_and_hazards.md): the first answers after RESET

RESET leaves every cursor at 0 and nothing pending (10_state.md R39). In such a state no self-expiry can fire at any
`now` and no machine is receiving, so each query and READ answers with every response field 0 and writes nothing else. -/

namespace Sys2Proof.Machine

/-- Every machine in `IDLE` and nothing pending: what RESET leaves (10_state.md R23, R39). -/
structure State.Idle (s : State) : Prop where
  pending : s.pending = false
  count : ∀ p, (s.machine p).count = 0
  hcount : s.hcount = 0

theorem resetBlock_idle (s : State) : (resetBlock s).Idle where
  pending := resetBlock_pending s
  count p := by rw [resetBlock_machine]; rfl
  hcount := resetBlock_hcount s

/-- No cursor, flag or claim is read from the response port (log 2). -/
theorem State.Idle.answer {s : State} (h : s.Idle) (r : Response) : (s.answer r).Idle where
  pending := (answer_pending s r).trans h.pending
  count p := by rw [answer_machine, h.count]
  hcount := (answer_hcount s r).trans h.hcount

/-- With every machine in `IDLE` no sequence is due and no frame is stale (45_dispatch.md R192). -/
theorem State.Idle.settled {s : State} (h : s.Idle) (now : Time) : s.Settled now :=
  .inr ⟨not_hashDue_of_idle fun _ => h.hcount, fun p _ => not_staleFrame_of_idle (h.count p)⟩

/-- A machine in `IDLE` is not receiving (45_dispatch.md R197). -/
theorem State.Idle.not_receiving {s : State} (h : s.Idle) (e16 : Duration) : s.receivingFlag e16 = false := by
  refine Bool.eq_false_iff.mpr fun receiving => ?_
  obtain ⟨p, -, hopen, -⟩ | ⟨-, hopen, -⟩ := (receivingFlag_iff s e16).mp receiving
  · simp [h.count p] at hopen
  · simp [h.hcount] at hopen

/-- In an idle state a query whose response there is empty writes only that response. -/
theorem State.Idle.queryEffect_eq {s : State} (h : s.Idle) {respond : State → Response} (now : Time)
    (hr : respond s = .empty) : queryEffect respond now s = s.answer .empty := by
  rw [queryEffect, (h.settled now).timeoutPhase_eq, hr]

/-- AVAILABLE in an idle state answers 0 (45_dispatch.md R196). -/
theorem State.Idle.exec_available {s : State} (h : s.Idle) (now : Time) :
    exec (.available now) s = .next (s.answer .empty) := by
  rw [exec_available_eq, h.queryEffect_eq now (by rw [h.pending]; rfl)]

/-- RECEIVING in an idle state answers 0 (45_dispatch.md R197). -/
theorem State.Idle.exec_receiving {s : State} (h : s.Idle) (now : Time) :
    exec (.receiving now) s = .next (s.answer .empty) := by
  have silent : receivingResponse now s = .empty := by
    rw [receivingResponse, h.pending, h.not_receiving]; rfl
  rw [exec_receiving_eq, h.queryEffect_eq now silent]

/-- READ in an idle state finds nothing claimed and answers `NONE` (44_gate_read.md R181). -/
theorem State.Idle.exec_read {s : State} (h : s.Idle) (now : Time) :
    exec (.read now) s = .next (s.answer .empty) := by
  rw [exec_read_eq, (h.settled now).timeoutPhase_eq, readClaim_nothing h.pending]

/-- Settles O40: RESET leaves an idle state with an empty response, and an empty response over it changes nothing. -/
theorem firstAnswersAfterReset : Obligations.FirstAnswersAfterReset := by
  intro r now s t h
  rw [exec_reset_eq, ← answer_empty] at h
  obtain rfl : (resetBlock s).answer .empty = t := Host.Outcome.next.inj h
  have idle : ((resetBlock s).answer .empty).Idle := (resetBlock_idle s).answer .empty
  exact ⟨idle.exec_available now, idle.exec_receiving now, idle.exec_read now, Response.word_empty⟩

end Sys2Proof.Machine

/-! ## What a legal configuration is, and what a step runs (spec/00_scope.md R6, R8, R9; 30_encoding.md R71)

Each check of WellFormed.lean is said once as a proposition, from the clauses of R8 up to `Config.legal`; a step under
a legal configuration is then the operation its oldest request decodes to. -/

namespace Sys2Proof

/-! ### The checks as propositions -/

/-- R8 (a). -/
theorem limitsLegal_iff {P : ProtoParams} : P.limitsLegal = true ↔
    0 < P.limitLogic ∧ P.limitLogic < P.limitHolding ∧ P.limitHolding ≤ P.limitLead ∧
      P.limitLead < P.limitTimeout := by
  simp only [ProtoParams.limitsLegal, Bool.and_eq_true, decide_eq_true_eq, and_assoc]

/-- R8 (b). -/
theorem bitsLegal_iff {P : ProtoParams} : P.bitsLegal = true ↔ 0 < P.bits ∧ 8 ∣ P.bits ∧ P.bits ≤ 248 := by
  simp only [ProtoParams.bitsLegal, Bool.and_eq_true, decide_eq_true_eq, and_assoc, Nat.dvd_iff_mod_eq_zero]

/-- R8 (c), log 6. -/
theorem holdingLegal_iff {P : ProtoParams} : P.holdingLegal = true ↔
    P.limitHolding = P.limitLead ∨
      (P.holdingPayload.length = P.bytes ∧ P.checksum.holds P.holdingPayload = true) := by
  simp only [ProtoParams.holdingLegal, Bool.or_eq_true, Bool.and_eq_true, decide_eq_true_eq]

/-- Log 6: the bytes named lie in the buffer, and the results fit the response of 30_encoding.md R73. -/
theorem layoutLegal_iff {P : ProtoParams} : P.layoutLegal = true ↔
    (∀ j ∈ P.checksum.indices ++ P.addressBytes ++ P.commandBytes, j < P.bytes) ∧
      P.addressBytes.length ≤ 2 ∧ P.commandBytes.length ≤ 4 := by
  simp only [ProtoParams.layoutLegal, Bool.and_eq_true, List.all_eq_true, decide_eq_true_eq, List.append_assoc,
    List.forall_mem_append, and_assoc]

/-- A structured parameter set is legal when each of its four checks holds (00_scope.md R8). -/
theorem paramsLegal_iff {P : ProtoParams} : P.legal = true ↔
    P.limitsLegal = true ∧ P.bitsLegal = true ∧ P.holdingLegal = true ∧ P.layoutLegal = true := by
  simp only [ProtoParams.legal, Bool.and_eq_true, and_assoc]

/-- R9, log 9. -/
theorem hashLegal_iff {H : HashParams} : H.legal = true ↔
    0 < H.timeout ∧ 2 ≤ H.maxBlocks ∧ H.maxBlocks ≤ 254 ∧ 0 < H.tolDen ∧ H.tolNum ≤ H.tolDen := by
  simp only [HashParams.legal, Bool.and_eq_true, decide_eq_true_eq, and_assoc]

/-- The machines of `M` are structured ones or the hash machine. -/
theorem machinesLegal_iff {cfg : Config} : cfg.machines.all cfg.machineLegal = true ↔
    (∀ p, MachineId.structured p ∈ cfg.machines → (cfg.params p).legal = true) ∧
      (MachineId.hash ∈ cfg.machines → cfg.hash.legal = true) := by
  rw [List.all_eq_true]
  constructor
  · exact fun h => ⟨fun p => h (.structured p), h .hash⟩
  · rintro ⟨structured, hash⟩ m hm
    cases m with
    | structured p => exact structured p hm
    | hash => exact hash hm

/-- `M` is not empty, repeats no machine, and each of its machines is legal (00_scope.md R6). -/
theorem configLegal_iff {cfg : Config} : cfg.legal = true ↔
    cfg.machines ≠ [] ∧ cfg.machines.Nodup ∧
      (∀ p, MachineId.structured p ∈ cfg.machines → (cfg.params p).legal = true) ∧
      (MachineId.hash ∈ cfg.machines → cfg.hash.legal = true) := by
  simp only [Config.legal, Bool.and_eq_true, Bool.not_eq_true', List.isEmpty_eq_false_iff, decide_eq_true_eq,
    machinesLegal_iff, and_assoc]

end Sys2Proof

namespace Sys2Proof.Machine

/-! ### What a step does -/

/-- A step under an illegal configuration is refused by name (00_scope.md R8). -/
theorem step_of_illegal {s : State} (h : s.cfg.legal = false) : step s = .refused .illegalConfiguration := by
  rw [step, if_neg (by simp [h])]

/-- A step under a legal configuration runs what its oldest request decodes to (20_memory.md R58). -/
theorem step_of_decode {s : State} {i : Instr} (hl : s.cfg.legal = true) (h : decode s.nextRequest = .ok i) :
    step s = exec i s.takeRequest := by
  rw [step, if_pos hl, h]

/-- Where no request is left, there is none to take (log 1). -/
theorem takeRequest_of_empty {s : State} (h : s.requests = []) : s.takeRequest = s := by
  rw [State.takeRequest, h, List.tail_nil, ← h]

/-- The table word of an operation is its request word: its 35 bits fit the table's 40 (log 12). -/
theorem tableRequest_toNat (w : RequestWord) : tableRequest 40 w.toNat = w := by
  have fits : w.toNat < 2 ^ 40 := by omega
  rw [tableRequest, Nat.mod_eq_of_lt fits, BitVec.ofNat_toNat, BitVec.setWidth_eq]

/-! ### The obligations about configurations and steps -/

/-- Settles O7: the check of a configuration, clause by clause, is the first test of a step. -/
theorem legalConfigurationMeaning : Obligations.LegalConfigurationMeaning := by
  refine ⟨fun cfg => ?_, fun s => step_of_illegal⟩
  simp only [configLegal_iff, paramsLegal_iff, limitsLegal_iff, bitsLegal_iff, holdingLegal_iff, layoutLegal_iff,
    hashLegal_iff, and_assoc]

/-- Settles O5: the oldest request is the head of the list, and the word of an empty list is NOP's. -/
theorem stepRunsDecodedRequest : Obligations.StepRunsDecodedRequest := by
  refine ⟨fun s w rest i hl hreq hdec => ?_, fun s hl hreq => ?_⟩
  · have oldest : s.nextRequest = w := by rw [State.nextRequest, hreq, List.headD_cons]
    rw [step_of_decode hl (oldest ▸ hdec), State.takeRequest, hreq, List.tail_cons]
  · have oldest : s.nextRequest = encode (.nop 0) := by rw [State.nextRequest, hreq]; rfl
    rw [step_of_decode hl (oldest ▸ decodeOfEncode _), takeRequest_of_empty hreq]

/-- Settles O6: the presented word is the operation's own, and it decodes to the operation. -/
theorem presentedWordRuns : Obligations.PresentedWordRuns := by
  intro s i hl
  rw [State.withFetchWord, tableRequest_toNat]
  exact step_of_decode (s := s.present (encode i)) hl (decodeOfEncode i)

end Sys2Proof.Machine

/-! ## The NEC and Panasonic instances (spec/42_nec_panasonic.md)

The lengths follow from the number of data bits (00_scope.md R7). The results of R143 and R153 are concatenations of
buffer bytes: each byte that `assembleLE` takes in goes below what it has assembled from the bytes after it. -/

namespace Sys2Proof

/-! ### Complements, and bytes put together -/

/-- R141 in its two forms: a byte is the complement of another exactly when their XOR is all ones. -/
theorem xor_eq_allOnes_iff {w : Nat} {x y : BitVec w} : x ^^^ y = BitVec.allOnes w ↔ y = ~~~ x := by
  rw [← BitVec.xor_allOnes]
  constructor
  · intro h
    rw [← h, ← BitVec.xor_assoc, BitVec.xor_self, BitVec.zero_xor]
  · rintro rfl
    rw [← BitVec.xor_assoc, BitVec.xor_self, BitVec.zero_xor]

/-- One byte is zero-extended (20_memory.md R52). -/
theorem assembleLE_singleton (w : Nat) (data : List Byte) (j : Nat) :
    assembleLE w data [j] = (byteAt data j).setWidth w := by
  simp [assembleLE]

/-- A byte goes below the value of the bytes after it (20_memory.md R52). -/
theorem assembleLE_cons {w v : Nat} {data : List Byte} {idx : List Nat} {high : BitVec v} (j : Nat)
    (h : assembleLE w data idx = high.setWidth w) :
    assembleLE w data (j :: idx) = (high ++ byteAt data j).setWidth w := by
  apply BitVec.eq_of_getLsbD_eq
  intro i hi
  by_cases low : i < 8
  · simp [assembleLE, h, BitVec.getLsbD_append, hi, low]
  · have above : (byteAt data j).getLsbD i = false := BitVec.getLsbD_of_ge _ _ (Nat.le_of_not_lt low)
    simp [assembleLE, h, BitVec.getLsbD_append, hi, low, above]

/-! ### The obligations about the two instances -/

/-- Settles O19: `TERM` and `DONE` come from the number of bits. -/
theorem instanceLengths : Obligations.InstanceLengths :=
  ⟨⟨rfl, rfl, rfl, rfl, term_eq necDefault, done_eq necDefault, rfl⟩,
    ⟨rfl, rfl, rfl, rfl, term_eq panasonicDefault, done_eq panasonicDefault, rfl⟩⟩

/-- Settles O20: the NEC checksum compares a byte with a complement, the Panasonic one folds XOR over three bytes. -/
theorem checksumPredicates : Obligations.ChecksumPredicates := by
  refine ⟨fun b0 b1 b2 b3 => ?_, fun b0 b1 b2 b3 b4 b5 => ?_⟩
  · have complement : necDefault.checksum.holds [b0, b1, b2, b3] = true ↔ b3 = ~~~ b2 := beq_iff_eq
    exact ⟨complement, complement.trans xor_eq_allOnes_iff.symm⟩
  · have folded : panasonicDefault.checksum.holds [b0, b1, b2, b3, b4, b5] = true ↔ 0#8 ^^^ b2 ^^^ b3 ^^^ b4 = b5 :=
      beq_iff_eq
    rw [folded, BitVec.zero_xor]

/-- Settles O21: the bytes of each result, assembled from the highest one down. -/
theorem resultExtraction : Obligations.ResultExtraction := by
  refine ⟨fun b0 b1 b2 b3 => ⟨?_, ?_⟩, fun b0 b1 b2 b3 b4 b5 => ⟨?_, ?_⟩⟩
  · exact (assembleLE_cons 0 (assembleLE_singleton 16 _ 1)).trans (BitVec.setWidth_eq _)
  · exact assembleLE_singleton 32 _ 2
  · exact (assembleLE_cons 0 (assembleLE_singleton 16 _ 1)).trans (BitVec.setWidth_eq _)
  · have three := assembleLE_cons 3 (assembleLE_cons 4 (assembleLE_singleton 32 [b0, b1, b2, b3, b4, b5] 5))
    exact (assembleLE_cons 2 three).trans (BitVec.setWidth_eq _)

end Sys2Proof

/-! ## What no EDGE touches (spec/10_state.md R20, R25, R28)

An EDGE is a train of single writes: the self-expiries of the timeout phase, the Edge Clock, then the machines' edges
(45_dispatch.md R190). `KeptByEdge` is what each of them keeps. It is reflexive and transitive, so it is shown once per
kind of write and carried through the two loops; the two times have their lemmas in the state family. -/

namespace Sys2Proof.Machine

/-! ### What a single write of an EDGE keeps -/

/-- What every write of an EDGE keeps, the two times and the response aside: the configuration and the requests, a
pending claim, the tag where nothing is claimed, and the registers of the machines that are not armed (10_state.md R27,
R28, R30; log 10). -/
structure KeptByEdge (s t : State) : Prop where
  cfg : t.cfg = s.cfg
  requests : t.requests = s.requests
  tag : t.tag = s.tag ∨ (s.pending = false ∧ t.pending = true)
  pending : s.pending = true → t.pending = true
  machine : ∀ p, ¬ s.armed (.structured p) → t.machine p = s.machine p
  hash : ¬ s.armed .hash → t.hcount = s.hcount ∧ t.hash = s.hash ∧ t.hprev = s.hprev ∧ t.hdone = s.hdone

theorem KeptByEdge.refl (s : State) : KeptByEdge s s :=
  ⟨rfl, rfl, .inl rfl, id, fun _ _ => rfl, fun _ => ⟨rfl, rfl, rfl, rfl⟩⟩

theorem KeptByEdge.armed_iff {s t : State} (h : KeptByEdge s t) {m : MachineId} : t.armed m ↔ s.armed m := by
  rw [State.armed, State.armed, h.cfg]

/-- The tag is the clause that needs the others: a claim of the first part is still pending after the second, and one
of the second part was not pending before the first. -/
theorem KeptByEdge.trans {s t u : State} (a : KeptByEdge s t) (b : KeptByEdge t u) : KeptByEdge s u where
  cfg := b.cfg.trans a.cfg
  requests := b.requests.trans a.requests
  tag := by
    obtain hb | ⟨free, claimed⟩ := b.tag
    · exact a.tag.imp hb.trans fun ⟨free, claimed⟩ => ⟨free, b.pending claimed⟩
    · have free' : s.pending = false := Bool.eq_false_iff.mpr fun hs => by simp [a.pending hs] at free
      exact .inr ⟨free', claimed⟩
  pending hs := b.pending (a.pending hs)
  machine p hn := (b.machine p (a.armed_iff.not.mpr hn)).trans (a.machine p hn)
  hash hn := by
    obtain ⟨ac, ah, ap, ad⟩ := a.hash hn
    obtain ⟨bc, bh, bp, bd⟩ := b.hash (a.armed_iff.not.mpr hn)
    exact ⟨bc.trans ac, bh.trans ah, bp.trans ap, bd.trans ad⟩

section SingleWrites

variable {s : State} {p : Proto}

theorem KeptByEdge.setMachine (ha : s.armed (.structured p)) (m : FrameMachine) :
    KeptByEdge s (s.setMachine p m) where
  cfg := setMachine_cfg s p m
  requests := setMachine_requests s p m
  tag := .inl (setMachine_tag s p m)
  pending hs := (setMachine_pending s p m).trans hs
  machine q hn := setMachine_other s m (by rintro rfl; exact hn ha)
  hash _ := by simp

/-- A claim writes its own machine and, where the hash machine is armed, may reset its cursor (41_protocol_machine.md
R121, 43_hash_decoder.md R173). -/
theorem KeptByEdge.claim (ha : s.armed (.structured p)) (hp : s.pending = false) : KeptByEdge s (claim p s) where
  cfg := claim_cfg p s
  requests := claim_requests p s
  tag := .inr ⟨hp, claim_pending p s⟩
  pending _ := claim_pending p s
  machine q hn := claim_machine_other s (by rintro rfl; exact hn ha)
  hash hn := by
    have notListed : MachineId.hash ∉ s.cfg.machines := hn
    simp [claim_hcount, notListed]

theorem KeptByEdge.setHash (ha : s.armed .hash) (hcount : BitVec 8) (hash : BitVec 32) (hprev : Duration) :
    KeptByEdge s { s with hcount := hcount, hash := hash, hprev := hprev } :=
  ⟨rfl, rfl, .inl rfl, id, fun q _ => by cases q <;> rfl, fun hn => absurd ha hn⟩

theorem KeptByEdge.publishHash (ha : s.armed .hash) (hp : s.pending = false) : KeptByEdge s (publishHash s) :=
  ⟨rfl, rfl, .inr ⟨hp, rfl⟩, fun _ => rfl, fun q _ => publishHash_machine s q, fun hn => absurd ha hn⟩

/-- The Edge Clock is no register of a machine (40_edge_clock.md R101). -/
theorem KeptByEdge.nextDuration (now : Time) (s : State) : KeptByEdge s (nextDuration now s).2 :=
  ⟨rfl, rfl, .inl rfl, id, fun q _ => nextDuration_state_machine now s q, fun _ => ⟨rfl, rfl, rfl, rfl⟩⟩

/-- The response port is no register of a machine (log 2). -/
theorem KeptByEdge.answer (s : State) (r : Response) : KeptByEdge s (s.answer r) :=
  ⟨rfl, rfl, .inl rfl, id, fun q _ => answer_machine s r q, fun _ => ⟨rfl, rfl, rfl, rfl⟩⟩

end SingleWrites

/-! ### What an armed machine's turn, and the two loops, keep -/

/-- The edge of an armed machine, with nothing pending. -/
theorem onEdgeOf_keptByEdge {m : MachineId} {s : State} (d : Duration) (ha : s.armed m) (hp : s.pending = false) :
    KeptByEdge s (onEdgeOf d m s) := by
  cases m with
  | structured p =>
    obtain ⟨m, e⟩ | ⟨m, e⟩ := onEdge_shape p d s <;> rw [onEdgeOf, e]
    · exact .setMachine ha m
    · have stored := KeptByEdge.setMachine ha m
      exact stored.trans (.claim (stored.armed_iff.mpr ha) ((setMachine_pending s p m).trans hp))
  | hash =>
    obtain ⟨hcount, hash, hprev, e⟩ | ⟨hcount, hash, hprev, e⟩ := onEdgeHash_shape d s <;> rw [onEdgeOf, e]
    · exact .setHash ha hcount hash hprev
    · exact (KeptByEdge.setHash ha hcount hash hprev).trans (.publishHash ha hp)

/-- The self-expiry of an armed machine, with nothing pending. -/
theorem checkTimeoutOf_keptByEdge {m : MachineId} {s : State} (e16 : Duration) (ha : s.armed m)
    (hp : s.pending = false) : KeptByEdge s (checkTimeoutOf e16 m s) := by
  cases m with
  | structured p =>
    obtain e | e := checkTimeoutStructured_cases p e16 s <;> rw [checkTimeoutOf, e]
    · exact .refl s
    · exact .setMachine ha _
  | hash =>
    obtain e | ⟨e, -⟩ := checkTimeoutHash_cases e16 s <;> rw [checkTimeoutOf, e]
    · exact .refl s
    · exact .publishHash ha hp

theorem timeoutPhase_keptByEdge (now : Time) (s : State) : KeptByEdge s (timeoutPhase now s) :=
  timeoutLoop_keeps (R := KeptByEdge s)
    (fun _ _ hm ht hp => ht.trans (checkTimeoutOf_keptByEdge _ (ht.armed_iff.mpr hm) hp)) s (.refl s)

theorem fanOut_keptByEdge (d : Duration) (s : State) : KeptByEdge s (fanOut d s.cfg.machines s) :=
  fanOut_keeps (R := KeptByEdge s)
    (fun _ _ hm ht hp => ht.trans (onEdgeOf_keptByEdge d (ht.armed_iff.mpr hm) hp)) s (.refl s)

theorem dispatchEdge_keptByEdge (now : Time) (s : State) : KeptByEdge s (dispatchEdge now s) :=
  (KeptByEdge.nextDuration now s).trans (fanOut_keptByEdge _ (nextDuration now s).2)

/-! ### What a whole EDGE keeps -/

theorem edgeEffect_keptByEdge (now : Time) (s : State) : KeptByEdge s (edgeEffect now s) := by
  have phase := timeoutPhase_keptByEdge now s
  obtain ⟨-, e⟩ | ⟨-, -, e⟩ | ⟨-, -, e⟩ := edgeEffect_cases now s <;> rw [e]
  · exact .refl s
  · exact phase
  · exact phase.trans (dispatchEdge_keptByEdge now _)

/-- EDGE leaves the Edge Clock where it was, or sets it to `now` (10_state.md R25). -/
theorem edgeEffect_lastEdgeTime (now : Time) (s : State) :
    (edgeEffect now s).lastEdgeTime = s.lastEdgeTime ∨ (edgeEffect now s).lastEdgeTime = now := by
  obtain ⟨-, e⟩ | ⟨-, -, e⟩ | ⟨-, -, e⟩ := edgeEffect_cases now s <;> rw [e]
  · exact .inl rfl
  · exact .inl (timeoutPhase_kept now s).lastEdgeTime
  · exact .inr (dispatchEdge_lastEdgeTime now _)

/-- Settles O32: what every write of an EDGE keeps, with the lemmas on the two times and the empty response. -/
theorem edgeFrame : Obligations.EdgeFrame := by
  intro now s t h
  obtain rfl := exec_edge_eq h
  have kept := (edgeEffect_keptByEdge now s).trans (.answer _ .empty)
  have event := (edgeEffect_lastEventTime now s).imp_right fun ⟨_, hevent, _⟩ => hevent
  exact ⟨⟨kept.cfg, kept.requests⟩, Response.word_empty, edgeEffect_lastEdgeTime now s, event, kept.tag, kept.pending,
    kept.machine, kept.hash⟩

end Sys2Proof.Machine
